-- ==== Sys2Proof/Word.lean ====
section
/-! DEFINITION. The bit vectors the spec names: bytes, 16-bit words and 256-entry arrays of bytes.
Bit 0 is the least significant bit and every value is unsigned (00_scope.md R11). -/

namespace Sys2Proof

/-- An 8-bit value: an entry of `S` or `K`, an index register, an operand (00_scope.md R7). -/
abbrev Byte := BitVec 8

/-- A 16-bit value: a command word or a response word (00_scope.md R7). -/
abbrev Word := BitVec 16

/-- An internal memory of 256 entries of 8 bits, index n being entry n (20_memory.md R50, R57).
The length is part of the type, so every index 0..255 names an entry (20_memory.md R51). -/
abbrev Table := Vector Byte 256

end Sys2Proof
end

