-- ==== Sys2Proof/Syntax.lean ====
section
/-! DEFINITION. The command set as syntax: one constructor per row of spec/opcode_table.json
(30_encoding.md R82), the fields of a command word (R77), the results of decoding (R83) and the
pseudo-instructions of the assembler (R86). -/

namespace Sys2Proof

/-- The eight commands (30_encoding.md R82). The only operand is a byte (R79). -/
inductive Instr where
  /-- `NOP` (44_control.md R180). -/
  | nop
  /-- `KCLR`: clear the key and end the session (40_key.md R100). -/
  | kclr
  /-- `KPUSH b`: append one key byte (40_key.md R101). -/
  | kpush (b : Byte)
  /-- `KSA`: schedule the key into `S` (41_ksa.md R120). -/
  | ksa
  /-- `GEN`: emit one keystream byte (42_prga.md R141). -/
  | gen
  /-- `XOR d`: one PRGA step combined with a data byte (43_xform.md R160). -/
  | xor (d : Byte)
  /-- `RDSTAT`: read STATUS (44_control.md R181). -/
  | rdstat
  /-- `RDKLEN`: read KLEN (44_control.md R182). -/
  | rdklen
deriving DecidableEq, Repr

/-- The three fields of a command word (30_encoding.md R77). -/
structure CmdFields where
  /-- `OPC`, bits 15:12. -/
  opc : BitVec 4
  /-- `RSV`, bits 11:8. -/
  rsv : BitVec 4
  /-- `IMM8`, bits 7:0. -/
  imm : Byte
deriving DecidableEq, Repr

/-- Why a word is illegal, in the order `decode` finds it (30_encoding.md R83, R84). -/
inductive IllegalWord where
  /-- `RSV` is not 0000. -/
  | reservedFieldNotZero
  /-- `OPC` is 0x8 or more. -/
  | reservedOpcode
  /-- `IMM8` is not 0x00 with an `OPC` that takes no operand. -/
  | operandNotZero
deriving DecidableEq, Repr

/-- What a word decodes to (30_encoding.md R83). -/
inductive Decoded where
  /-- The word is a command. -/
  | command (i : Instr)
  /-- The word is ILLEGAL, for the reason named. -/
  | illegal (why : IllegalWord)
deriving DecidableEq, Repr

/-- One row of the opcode map: a word selects it when `(w & mask) = pattern` (30_encoding.md R82). -/
structure OpcodeRow where
  /-- The mnemonic, as spec/opcode_table.json spells it. -/
  mnemonic : String
  /-- The bits that are fixed. -/
  mask : Word
  /-- Their values (the table's `match`). -/
  pattern : Word
deriving DecidableEq, Repr

/-- The pseudo-instructions (30_encoding.md R86). A text operand is the list of its ASCII codes. -/
inductive Pseudo where
  /-- `KEY b0, ..., b(n-1)` or `KEY "text"`. -/
  | key (bytes : List Byte)
  /-- `GENN n`. -/
  | genn (n : Nat)
  /-- `XORS b0, ..., b(n-1)` or `XORS "text"`. -/
  | xors (bytes : List Byte)
  /-- `RC4GEN key, n`. -/
  | rc4gen (key : List Byte) (n : Nat)
  /-- `RC4XFORM key, data`. -/
  | rc4xform (key data : List Byte)
deriving DecidableEq, Repr

end Sys2Proof
end

