-- ==== Sys2Proof/WellFormed.lean ====
section
/-! DEFINITION. Well-formedness of what stands in a command word (30_encoding.md R77, R84).

An `Instr` carries its operand as a byte, so a term of it cannot be out of range; what can be ill-formed is
the three fields of a word, and the three checks below are those of R84. -/

namespace Sys2Proof

/-- The operation codes whose `IMM8` is an operand: `KPUSH` 0x2 and `XOR` 0x5 (30_encoding.md R82). -/
def CmdFields.takesOperand (f : CmdFields) : Bool := f.opc == 0x2#4 || f.opc == 0x5#4

/-- Check 1: the reserved field is 0000 (30_encoding.md R77). -/
def CmdFields.reservedClear (f : CmdFields) : Bool := f.rsv == 0#4

/-- Check 2: the operation code is one of 0x0 to 0x7 (30_encoding.md R82). -/
def CmdFields.opcodeDefined (f : CmdFields) : Bool := decide (f.opc.toNat < 8)

/-- Check 3: without an operand, `IMM8` is 0x00 (30_encoding.md R77). -/
def CmdFields.operandClear (f : CmdFields) : Bool := f.takesOperand || f.imm == 0#8

/-- The fields are those of a legal command word: none of the three causes of R84 holds. -/
def CmdFields.wellFormed (f : CmdFields) : Bool :=
  f.reservedClear && f.opcodeDefined && f.operandClear

/-- The operand of a command, where it has one (30_encoding.md R79). -/
def Instr.operand : Instr → Option Byte
  | .nop => none
  | .kclr => none
  | .kpush b => some b
  | .ksa => none
  | .gen => none
  | .xor d => some d
  | .rdstat => none
  | .rdklen => none

/-- A command is well formed when its operand is an unsigned byte, 0..255 (30_encoding.md R79). The operand's
type holds it to that range, so every term of `Instr` is well formed; the check is kept so that statements
about well-formed commands read as such. -/
def Instr.wellFormed (i : Instr) : Bool :=
  match i.operand with
  | some b => decide (b.toNat ≤ 255)
  | none => true

end Sys2Proof
end

