-- ==== Sys2Proof/Decode.lean ====
section
/-! DEFINITION. Decoding, total on all 65536 words (30_encoding.md R83), the encoder, written from the opcode
map (R82), and the map itself as rows of mask and pattern. A command is one whole 16-bit word on a 16-bit port;
it has no byte order (20_memory.md R52). -/

namespace Sys2Proof

/-- The three fields of a word: `OPC` = w[15:12], `RSV` = w[11:8], `IMM8` = w[7:0] (30_encoding.md R77). -/
def fieldsOf (w : Word) : CmdFields :=
  { opc := w.extractLsb' 12 4, rsv := w.extractLsb' 8 4, imm := w.extractLsb' 0 8 }

/-- The last line of `decode`: the commands that take no operand, by operation code (30_encoding.md R83). -/
def decodeNoOperand (opc : BitVec 4) : Decoded :=
  if opc = 0x0#4 then .command .nop
  else if opc = 0x1#4 then .command .kclr
  else if opc = 0x3#4 then .command .ksa
  else if opc = 0x4#4 then .command .gen
  else if opc = 0x6#4 then .command .rdstat
  else if opc = 0x7#4 then .command .rdklen
  else .illegal .reservedOpcode

/-- `decode`, in the order of its lines (30_encoding.md R83). -/
def decode (w : Word) : Decoded :=
  let f := fieldsOf w
  if f.rsv ≠ 0#4 then .illegal .reservedFieldNotZero
  else if f.opc = 0x2#4 then .command (.kpush f.imm)
  else if f.opc = 0x5#4 then .command (.xor f.imm)
  else if 8 ≤ f.opc.toNat then .illegal .reservedOpcode
  else if f.imm ≠ 0#8 then .illegal .operandNotZero
  else decodeNoOperand f.opc

/-- The command word of a command: its operation code over its operand (30_encoding.md R82, column `match`). -/
def encode : Instr → Word
  | .nop => 0x0000#16
  | .kclr => 0x1000#16
  | .kpush b => 0x2000#16 ||| b.setWidth 16
  | .ksa => 0x3000#16
  | .gen => 0x4000#16
  | .xor d => 0x5000#16 ||| d.setWidth 16
  | .rdstat => 0x6000#16
  | .rdklen => 0x7000#16

/-- The mnemonic of a command, as spec/opcode_table.json spells it. -/
def Instr.mnemonic : Instr → String
  | .nop => "NOP"
  | .kclr => "KCLR"
  | .kpush _ => "KPUSH"
  | .ksa => "KSA"
  | .gen => "GEN"
  | .xor _ => "XOR"
  | .rdstat => "RDSTAT"
  | .rdklen => "RDKLEN"

/-- The opcode map (30_encoding.md R82). -/
def opcodeMap : List OpcodeRow :=
  [ { mnemonic := "NOP", mask := 0xFFFF#16, pattern := 0x0000#16 },
    { mnemonic := "KCLR", mask := 0xFFFF#16, pattern := 0x1000#16 },
    { mnemonic := "KPUSH", mask := 0xFF00#16, pattern := 0x2000#16 },
    { mnemonic := "KSA", mask := 0xFFFF#16, pattern := 0x3000#16 },
    { mnemonic := "GEN", mask := 0xFFFF#16, pattern := 0x4000#16 },
    { mnemonic := "XOR", mask := 0xFF00#16, pattern := 0x5000#16 },
    { mnemonic := "RDSTAT", mask := 0xFFFF#16, pattern := 0x6000#16 },
    { mnemonic := "RDKLEN", mask := 0xFFFF#16, pattern := 0x7000#16 } ]

/-- A word selects a row (30_encoding.md R82). -/
def OpcodeRow.selects (r : OpcodeRow) (w : Word) : Bool := w &&& r.mask == r.pattern

/-- The command in an answer of the decoder, if there is one. -/
def Decoded.instr? : Decoded → Option Instr
  | .command i => some i
  | .illegal _ => none

/-- The word whose lowest bits are the lowest `nbits` bits of `w`, the rest 0. -/
def tableWord (nbits w : Nat) : Word := BitVec.ofNat 16 (w % 2 ^ nbits)

/-- The decoder's answer on a word numbered as spec/opcode_table.json numbers it. -/
def decodeTableWord (nbits w : Nat) : Option Instr := (decode (tableWord nbits w)).instr?

end Sys2Proof
end

