-- ==== Sys2Proof/Config.lean ====
section
/-! DEFINITION. What an implementation fixes, and the values the spec leaves free.

The free values are constants with no body: no proof can learn one (93_implementation_defined.md U1 to U4).
The latencies are an argument of the clock-level model (00_scope.md R10); no meaning reads them. -/

namespace Sys2Proof

/-- Entries of the permutation array, `N_S` (00_scope.md R7). Irreducible, so that no proof unrolls a loop of that
many iterations by accident; `Config.entriesOfS_eq` gives the number. -/
@[irreducible] def Config.entriesOfS : Nat := 256

/-- `N_S` is 256 (00_scope.md R7). -/
theorem Config.entriesOfS_eq : Config.entriesOfS = 256 := by unfold Config.entriesOfS; rfl

/-- FREE VALUE: what entry n of `S` holds after the reset that is draw d (10_state.md R34, log entry 3). -/
opaque Config.entryOfSAfterReset (d : Nat) (n : Byte) : Byte

/-- FREE VALUE: what entry n of `K` holds after the reset that is draw d (10_state.md R34, log entry 3). -/
opaque Config.entryOfKAfterReset (d : Nat) (n : Byte) : Byte

/-- FREE VALUE: what `RSP` holds after the reset that is draw d (10_state.md R34, log entry 3). -/
opaque Config.rspAfterReset (d : Nat) : Word

/-- FREE VALUE: what `rsp_word` shows in the cycle that is draw d, while `rsp_valid` = 0
(30_encoding.md R76, log entry 11). -/
opaque Config.rspWordWhileInvalid (d : Nat) : Word

/-- From where the cycles of `LAT_RESET` are counted. The rules differ by one cycle and no ruling settles it, so the
model leaves it open as one more parameter (DESIGN CHOICE, safe, log entry 7). -/
inductive ResetCount where
  /-- 30_encoding.md R73: from the edge at which `rst` was last 1. -/
  | sinceRstWasLast1
  /-- 70_reset_and_hazards.md R240, R242: from the first edge with `rst` = 0, `cmd_ready` being 0 until then. -/
  | afterFirstEdge
deriving DecidableEq, Repr

/-- The open timing parameters of one implementation (00_scope.md R10, 20_memory.md R56). The clock-level
model takes them as an argument; no rule of any command reads them (70_reset_and_hazards.md R249). -/
structure Timing where
  /-- `LAT_KSA`: cycles from the acceptance of `KSA` to its response. -/
  latKsa : Nat
  /-- `LAT_STEP`: the same for `GEN` and `XOR`. -/
  latStep : Nat
  /-- `LAT_CTRL`: the same for every other command. -/
  latCtrl : Nat
  /-- `LAT_RESET`: cycles after reset is deasserted before `cmd_ready` may first be 1, counted as
  `resetCount` says. -/
  latReset : Nat
  /-- Where the count of `LAT_RESET` begins (log entry 7). -/
  resetCount : ResetCount
  /-- How many iterations of the KSA loop the implementation does in each cycle of `EXEC`, the first cycle
  being cycle 0; what is left is done in the last one (41_ksa.md R129, log entry 9). -/
  ksaRate : Nat → Nat

/-- The edges with `rst` = 0 that must have passed before `cmd_ready` may be 1: `LAT_RESET` as R73 counts
(30_encoding.md), one more as R242 counts (70_reset_and_hazards.md). -/
def Timing.resetWait (T : Timing) : Nat :=
  match T.resetCount with
  | .sinceRstWasLast1 => T.latReset
  | .afterFirstEdge => T.latReset + 1

/-- The bounds the spec puts on the latencies (00_scope.md R10). -/
def Timing.Legal (T : Timing) : Prop :=
  1 ≤ T.latKsa ∧ 1 ≤ T.latStep ∧ 1 ≤ T.latCtrl

end Sys2Proof
end

