-- ==== Sys2Proof/Machine/State.lean ====
section
/-! DEFINITION. The state of one RC4KG instance as plain data (10_state.md R20, R32), the reasons a step can
stop, and the state after reset (R34).

`KFULL`, `KEMPTY`, the STATUS and KLEN views, `cmd_ready` and `rsp_valid` are functions of these fields
(10_state.md R28, R30; 30_encoding.md R73, R74) and are stored nowhere. -/

namespace Sys2Proof.Machine

/-- The status codes a response can carry (30_encoding.md R81). Codes 0x5 to 0xF have no constructor: they are
never produced (60_exceptions.md R205). -/
inductive Status where
  /-- The command completed and made its state change. -/
  | ok
  /-- The word is not a command (60_exceptions.md R201). -/
  | illegal
  /-- `KSA` with an empty key (60_exceptions.md R202). -/
  | invalidKey
  /-- `GEN` or `XOR` with `READY` = 0 (60_exceptions.md R203). -/
  | notKeyed
  /-- `KPUSH` with `READY` = 1 (60_exceptions.md R204). -/
  | keyLocked
deriving DecidableEq, Repr

/-- A command that has been accepted and has not completed (10_state.md R32, `EXEC`). -/
structure InProgress where
  /-- The command word sampled at the acceptance edge (30_encoding.md R72). -/
  cmd : Word
  /-- Cycles already spent in `EXEC` (00_scope.md R10). -/
  cycles : Nat
  /-- Iterations of the KSA loop already done (41_ksa.md R129); 0 for every other command. The loop's running
  i and j are the registers `i` and `j` (10_state.md R23, R24). -/
  ksaCount : Nat
deriving DecidableEq, Repr

/-- The sequencer phase, `PHASE` (10_state.md R32). -/
inductive Phase where
  /-- `IDLE`: no command in progress. -/
  | idle
  /-- `EXEC`: a command has been accepted and has not yet completed. -/
  | exec (p : InProgress)
  /-- `RESP`: the command has completed and `RSP` is presented with `rsp_valid` = 1. -/
  | resp
deriving DecidableEq, Repr

/-- What the host does at the level of whole commands (00_scope.md R6, 70_reset_and_hazards.md R240). -/
inductive HostEvent where
  /-- Present a command word until it is accepted, taking a waiting response first. -/
  | command (w : Word)
  /-- Assert `rst` for one clock edge. -/
  | reset
deriving DecidableEq, Repr

/-- One RC4KG instance (10_state.md R20, R32). -/
structure State where
  /-- The permutation array (10_state.md R21). -/
  S : Table
  /-- The index register i (10_state.md R23). -/
  i : Byte
  /-- The index register j (10_state.md R24). -/
  j : Byte
  /-- The key buffer (10_state.md R25). -/
  K : Table
  /-- The number of valid key bytes, 0..256 (10_state.md R26). -/
  KEYLEN : BitVec 9
  /-- The keyed flag (10_state.md R27). -/
  READY : Bool
  /-- The sequencer phase (10_state.md R32). -/
  PHASE : Phase
  /-- The pending response word (10_state.md R32). -/
  RSP : Word
  /-- Clock edges with `rst` = 0 since `rst` was last 1 (30_encoding.md R73, log entry 7). -/
  sinceReset : Nat
  /-- The model's own: what the host will do next, oldest first (log entry 5). -/
  host : List HostEvent
  /-- The model's own: how many free values have been drawn (log entry 3). -/
  draws : Nat
deriving DecidableEq, Repr

/-- Why the machine stops with a fault. There is no such reason: every error is the status of a response and
"No error is fatal" (60_exceptions.md R200, R219), so this type has no constructor (log entry 17). -/
inductive Fault where
deriving DecidableEq, Repr

/-- Why a step has no meaning. -/
inductive Refusal where
  /-- Raised by `exec` for a command that has no meaning yet; safe, since it proves nothing. No arm of `exec`
  raises it in this model. -/
  | notModelled (mnemonic : String)
deriving DecidableEq, Repr

/-- The machine right after reset (10_state.md R34). `READY`, `KEYLEN`, `i`, `j`, `PHASE` and `sinceReset` are
the spec's; `S`, `K` and `RSP` are unspecified there and hold zeros here (DESIGN CHOICE, unsafe, log entry 2);
`host` and `draws` are the model's own (log entries 3 and 5). -/
def State.reset : State :=
  { S := Vector.replicate 256 0#8
    i := 0#8
    j := 0#8
    K := Vector.replicate 256 0#8
    KEYLEN := 0#9
    READY := false
    PHASE := .idle
    RSP := 0#16
    sinceReset := 0
    host := []
    draws := 0 }

end Sys2Proof.Machine
end

