-- ==== Sys2Proof/Machine/Flags.lean ====
section
/-! DEFINITION. The derived flags and the two read-only views (10_state.md R28, R30). -/

namespace Sys2Proof.Machine

/-- `KFULL = (KEYLEN == 256)` (10_state.md R28). -/
def kfull (s : State) : Bool := s.KEYLEN == 256#9

/-- `KEMPTY = (KEYLEN == 0)` (10_state.md R28). -/
def kempty (s : State) : Bool := s.KEYLEN == 0#9

/-- STATUS: bit 0 `READY`, bit 1 `KFULL`, bit 2 `KEMPTY`, bits 7:3 hardwired 0 (10_state.md R30). -/
def statusByte (s : State) : Byte :=
  (BitVec.ofBool (kempty s) ++ (BitVec.ofBool (kfull s) ++ BitVec.ofBool s.READY : BitVec 2) : BitVec 3).setWidth 8

/-- KLEN: `KEYLEN[7:0]` (10_state.md R30). -/
def klenByte (s : State) : Byte := s.KEYLEN.extractLsb' 0 8

end Sys2Proof.Machine
end

