-- ==== Sys2Proof/Machine/Operands.lean ====
section
/-! DEFINITION. The response word (30_encoding.md R80, R81): its assembly and its fields. The command word's one
operand, `IMM8`, is cut out by the decoder (R79). -/

namespace Sys2Proof.Machine

/-- The number of a status code (30_encoding.md R81). -/
def Status.code : Status → BitVec 4
  | .ok => 0x0#4
  | .illegal => 0x1#4
  | .invalidKey => 0x2#4
  | .notKeyed => 0x3#4
  | .keyLocked => 0x4#4

/-- The response word `{ST, 0000, DATA}` (30_encoding.md R80, 00_scope.md R15). -/
def responseWord (st : Status) (d : Byte) : Word := (st.code ++ (0#4 ++ d : BitVec 12) : BitVec 16)

/-- `ST`, bits 15:12 of a response word (30_encoding.md R80). -/
def stOf (w : Word) : BitVec 4 := w.extractLsb' 12 4

/-- Bits 11:8 of a response word, always 0000 (30_encoding.md R80). -/
def rsvOf (w : Word) : BitVec 4 := w.extractLsb' 8 4

/-- `DATA`, bits 7:0 of a response word (30_encoding.md R80). -/
def dataOf (w : Word) : Byte := w.extractLsb' 0 8

end Sys2Proof.Machine
end

