-- ==== Sys2Proof/Machine/Ops.lean ====
section
/-! DEFINITION. The named operations over the arrays, the response port and the phase, and reset.

An error is taken by ONE operation, `raiseError`; there is no return-from-error command (60_exceptions.md R211):
what follows an error is what follows every response, `takeResponse` (R219). -/

namespace Sys2Proof.Machine

/-- `S[n]` or `K[n]` (00_scope.md R13). -/
def readEntry (a : Table) (n : Byte) : Byte := a[n.toNat]'n.isLt

/-- `S[n] <- v` or `K[n] <- v` (00_scope.md R13). -/
def writeEntry (a : Table) (n v : Byte) : Table := a.set n.toNat v n.isLt

/-- `swap(S, p, q)`: both reads come before both writes (00_scope.md R14). -/
def swapEntries (a : Table) (p q : Byte) : Table :=
  let x := readEntry a p
  let y := readEntry a q
  writeEntry (writeEntry a p y) q x

/-- The array whose entry n is `f n`. -/
def tabulate (f : Byte → Byte) : Table :=
  ⟨⟨(List.range 256).map fun n => f (BitVec.ofNat 8 n)⟩, by simp⟩

/-- The identity permutation, `S[n] <- n` for all n (41_ksa.md R120). -/
def identityTable : Table := tabulate fun n => n

/-- `respond(st, d)`: the command completes, its response is presented (00_scope.md R15, 10_state.md R32). -/
def respond (st : Status) (d : Byte) (s : State) : State :=
  { s with PHASE := .resp, RSP := responseWord st d }

/-- `raise E`: `respond(E, 0x00)` and no other state change (00_scope.md R15, 60_exceptions.md R200, R210). -/
def raiseError (e : Status) (s : State) : State := respond e 0x00#8 s

/-- The sequencer goes to a phase (10_state.md R32). -/
def enterPhase (p : Phase) (s : State) : State := { s with PHASE := p }

/-- The host takes the response, or there is none: `RESP` to `IDLE` (10_state.md R32, 60_exceptions.md R219). -/
def takeResponse (s : State) : State := { s with PHASE := .idle }

/-- A clock edge with `rst` = 1 (70_reset_and_hazards.md R240, R241): whatever the phase, the command in progress
and the response waiting are gone; `S`, `K` and `RSP` are left with free values (10_state.md R34, log entry 3).

DESIGN CHOICE, unsafe: the free values depend on `draws` alone, so two instances reset at the same count of draws get
equal contents here, where the spec lets them differ (20_memory.md R62, 60_exceptions.md R216; log entry 15). -/
def applyReset (s : State) : State :=
  { s with
    S := tabulate (Config.entryOfSAfterReset s.draws)
    i := 0#8
    j := 0#8
    K := tabulate (Config.entryOfKAfterReset s.draws)
    KEYLEN := 0#9
    READY := false
    PHASE := .idle
    RSP := Config.rspAfterReset s.draws
    sinceReset := 0
    draws := s.draws + 1 }

/-- The host has one more word to present, before everything else it will do (log entry 5). -/
def presentWord (w : Word) (s : State) : State := { s with host := .command w :: s.host }

/-- A command in progress is set aside, so that the next step accepts one (log entry 5). -/
def settle (s : State) : State :=
  match s.PHASE with
  | .exec _ => { s with PHASE := .idle }
  | .idle => s
  | .resp => s

end Sys2Proof.Machine
end

