-- ==== Sys2Proof/Machine/Control.lean ====
section
/-! DEFINITION. Control and status commands: NOP, RDSTAT, RDKLEN (44_control.md). -/

namespace Sys2Proof.Machine

/-- `NOP` (44_control.md R180). -/
def execNop (s : State) : Host.Outcome State Fault Refusal := .next (respond .ok 0x00#8 s)

/-- `RDSTAT` (44_control.md R181). -/
def execRdstat (s : State) : Host.Outcome State Fault Refusal := .next (respond .ok (statusByte s) s)

/-- `RDKLEN` (44_control.md R182). -/
def execRdklen (s : State) : Host.Outcome State Fault Refusal := .next (respond .ok (klenByte s) s)

end Sys2Proof.Machine
end

