-- ==== Sys2Proof/Machine/Key.lean ====
section
/-! DEFINITION. The key loading commands, KCLR and KPUSH (40_key.md). -/

namespace Sys2Proof.Machine

/-- `KCLR` (40_key.md R100): `S`, `i`, `j` and the entries of `K` keep their values. -/
def execKclr (s : State) : Host.Outcome State Fault Refusal :=
  .next (respond .ok 0x00#8 { s with KEYLEN := 0#9, READY := false })

/-- One key byte appended, or discarded when the buffer is full (40_key.md R101, R102). -/
def appendKeyByte (b : Byte) (s : State) : State :=
  if s.KEYLEN.toNat < 256 then
    { s with K := writeEntry s.K (s.KEYLEN.setWidth 8) b, KEYLEN := s.KEYLEN + 1#9 }
  else s

/-- `KPUSH b` (40_key.md R101): the `READY` check comes first (60_exceptions.md R207). -/
def execKpush (b : Byte) (s : State) : Host.Outcome State Fault Refusal :=
  if s.READY then .next (raiseError .keyLocked s)
  else .next (respond .ok 0x00#8 (appendKeyByte b s))

end Sys2Proof.Machine
end

