-- ==== Sys2Proof/Machine/Ksa.lean ====
section
/-! DEFINITION. Key scheduling: the KSA command (41_ksa.md R120), its iteration, and the forms the spec lets an
implementation use: the key pointer (R125) and the loop one iteration at a time (R129). -/

namespace Sys2Proof.Machine

/-- `E(n) = K[n mod KEYLEN]`, the cyclic extension of the key (41_ksa.md R121, R124). -/
def cyclicKey (s : State) (n : Nat) : Byte := readEntry s.K (BitVec.ofNat 8 (n % s.KEYLEN.toNat))

/-- `ksa_iter(S, j, i, E)` with e = E(i) (41_ksa.md R129): the new j (R122), then the swap (R123). -/
def ksaIter (S : Table) (j i e : Byte) : Table × Byte :=
  let j' := j + readEntry S i + e
  (swapEntries S i j', j')

/-- `S` and j after the first n iterations, from the identity and j = 0 (41_ksa.md R120). -/
def ksaLoop (E : Nat → Byte) : Nat → Table × Byte
  | 0 => (identityTable, 0#8)
  | n + 1 =>
    let r := ksaLoop E n
    ksaIter r.1 r.2 (BitVec.ofNat 8 n) (E n)

/-- `S` after all 256 iterations (41_ksa.md R120). -/
def scheduledArray (E : Nat → Byte) : Table := (ksaLoop E Config.entriesOfS).1

/-- The state change of a `KSA` that finds a key: 256 iterations, then `i <- 0`, `j <- 0`, `READY <- 1`
(41_ksa.md R120, R126). -/
def scheduleKey (s : State) : State :=
  { s with S := scheduledArray (cyclicKey s), i := 0#8, j := 0#8, READY := true }

/-- `KSA` (41_ksa.md R120): an empty key is rejected before any computation (60_exceptions.md R202). -/
def execKsa (s : State) : Host.Outcome State Fault Refusal :=
  if s.KEYLEN = 0#9 then .next (raiseError .invalidKey s)
  else .next (respond .ok 0x00#8 (scheduleKey s))

/-- The key pointer after n iterations, for a key of length `len` (41_ksa.md R125). -/
def keyPointer (len : Nat) : Nat → Nat
  | 0 => 0
  | n + 1 => if keyPointer len n + 1 = len then 0 else keyPointer len n + 1

/-- The initialisation of the loop, in the registers: `S` the identity and `j <- 0` (41_ksa.md R129). -/
def ksaBegin (s : State) : State := { s with S := identityTable, i := 0#8, j := 0#8 }

/-- One iteration of the loop, in the registers `S`, `i` and `j` (41_ksa.md R129, 10_state.md R23, R24). -/
def ksaMicroStep (n : Nat) (s : State) : State :=
  let r := ksaIter s.S s.j (BitVec.ofNat 8 n) (cyclicKey s n)
  { s with S := r.1, i := BitVec.ofNat 8 n, j := r.2 }

/-- `count` iterations of the loop, the first being iteration `first` (41_ksa.md R129). -/
def ksaMicroSteps : (count first : Nat) → State → State
  | 0, _, s => s
  | count + 1, first, s => ksaMicroSteps count (first + 1) (ksaMicroStep first s)

/-- The end of the command: the index reset of R126, `READY <- 1`, and the response (41_ksa.md R120). -/
def ksaEnd (s : State) : State :=
  respond .ok 0x00#8 { s with i := 0#8, j := 0#8, READY := true }

end Sys2Proof.Machine
end

