-- ==== Sys2Proof/Machine/Prga.lean ====
section
/-! DEFINITION. Keystream generation: the PRGA step (42_prga.md R140), its output mux (R142, R143) and the GEN
command (R141). -/

namespace Sys2Proof.Machine

/-- What `prga_step` answers: S', i', j' and the keystream byte (42_prga.md R140). -/
structure PrgaResult where
  /-- The swapped array S'. -/
  S : Table
  /-- The incremented index i'. -/
  i : Byte
  /-- The accumulated index j'. -/
  j : Byte
  /-- The keystream byte. -/
  ks : Byte
deriving DecidableEq, Repr

/-- `prga_step(S, i, j)` (42_prga.md R140): the output index and the output byte are read from the swapped array. -/
def prgaStep (S : Table) (i j : Byte) : PrgaResult :=
  let i' := i + 1#8
  let a := readEntry S i'
  let j' := j + a
  let S' := swapEntries S i' j'
  let t := readEntry S' i' + readEntry S' j'
  { S := S', i := i', j := j', ks := readEntry S' t }

/-- The bypass form of the output mux, which reads the array before the swap (42_prga.md R143). -/
def bypassMux (S : Table) (i j : Byte) : Byte :=
  let i' := i + 1#8
  let a := readEntry S i'
  let j' := j + a
  let b := readEntry S j'
  let t := a + b
  if t = i' then b else if t = j' then a else readEntry S t

/-- The PRGA step of the state: what its registers answer. -/
def prgaOf (s : State) : PrgaResult := prgaStep s.S s.i s.j

/-- `(S, i, j) <- (S', i', j')` (42_prga.md R140, R141). -/
def advanceKeystream (s : State) : State :=
  { s with S := (prgaOf s).S, i := (prgaOf s).i, j := (prgaOf s).j }

/-- `GEN` (42_prga.md R141). -/
def execGen (s : State) : Host.Outcome State Fault Refusal :=
  if s.READY then .next (respond .ok (prgaOf s).ks (advanceKeystream s))
  else .next (raiseError .notKeyed s)

end Sys2Proof.Machine
end

