-- ==== Sys2Proof/Machine/Xform.lean ====
section
/-! DEFINITION. Keystream combining: the XOR command (43_xform.md R160). -/

namespace Sys2Proof.Machine

/-- `XOR d` (43_xform.md R160): the PRGA step of `GEN`, its byte combined with d. -/
def execXor (d : Byte) (s : State) : Host.Outcome State Fault Refusal :=
  if s.READY then .next (respond .ok (d ^^^ (prgaOf s).ks) (advanceKeystream s))
  else .next (raiseError .notKeyed s)

end Sys2Proof.Machine
end

