-- ==== Sys2Proof/Machine/Dispatch.lean ====
section
/-! DEFINITION. The meaning of each command, one arm per constructor of `Instr`. -/

namespace Sys2Proof.Machine

/-- What a command does to the state (30_encoding.md R82). -/
def exec (i : Instr) (s : State) : Host.Outcome State Fault Refusal :=
  match i with
  | .nop => Sys2Proof.Machine.execNop s
  | .kclr => Sys2Proof.Machine.execKclr s
  | .kpush b => Sys2Proof.Machine.execKpush b s
  | .ksa => Sys2Proof.Machine.execKsa s
  | .gen => Sys2Proof.Machine.execGen s
  | .xor d => Sys2Proof.Machine.execXor d s
  | .rdstat => Sys2Proof.Machine.execRdstat s
  | .rdklen => Sys2Proof.Machine.execRdklen s

end Sys2Proof.Machine
end

