-- ==== Sys2Proof/Machine/Transact.lean ====
section
/-! DEFINITION. One whole transaction: acceptance of a word, decoding, the command's effect, its response
(00_scope.md R6, 20_memory.md R55, R58). -/

namespace Sys2Proof.Machine

/-- An accepted word runs: a command has its meaning; an ILLEGAL word completes with `E_ILLEGAL` and changes no
state (30_encoding.md R83, 60_exceptions.md R201, R207). -/
def runWord (w : Word) (s : State) : Host.Outcome State Fault Refusal :=
  match decode w with
  | .command i => exec i s
  | .illegal _ => .next (raiseError .illegal s)

/-- One transaction.

A reset comes before anything the machine is doing (70_reset_and_hazards.md R241, log entry 6). A command in
progress completes (log entry 10). Otherwise a waiting response is taken and the next word the host presents is
accepted and runs to its response (30_encoding.md R72, R74, R75; log entry 4). With nothing presented the
machine stays idle (60_exceptions.md R218). -/
def transact (s : State) : Host.Outcome State Fault Refusal :=
  match s.host, s.PHASE with
  | .reset :: rest, _ => .next (applyReset { s with host := rest })
  | _, .exec p => runWord p.cmd s
  | .command w :: rest, _ => runWord w (takeResponse { s with host := rest })
  | [], _ => .next (takeResponse s)

end Sys2Proof.Machine
end

