-- ==== Sys2Proof/Machine/Step.lean ====
section
/-! DEFINITION. The step of the machine: one transaction (00_scope.md R6), and the host's way to place a word
where the next step accepts it (log entry 5). -/

namespace Sys2Proof.Machine

/-- One step: one transaction (00_scope.md R6). -/
def step (s : State) : Host.Outcome State Fault Refusal := transact s

/-- `s` with the word numbered as spec/opcode_table.json numbers it presented by the host before anything else,
and no other command in progress, so that the next step accepts and runs exactly it (log entry 5). -/
def State.withFetchWord (s : State) (nbits w : Nat) : State := presentWord (tableWord nbits w) (settle s)

end Sys2Proof.Machine
end

