-- ==== Sys2Proof/Machine/HostSide.lean ====
section
/-! DEFINITION. What a host does with the block at the level of whole commands: pseudo-instructions as command
sequences (30_encoding.md R86) and a run of words with their responses (30_encoding.md R75). -/

namespace Sys2Proof.Machine

/-- `KEY b0, ..., b(n-1)`: `KCLR`, then one `KPUSH` a byte (30_encoding.md R86). -/
def keyCommands (key : List Byte) : List Instr := .kclr :: key.map fun b => .kpush b

/-- The expansion of a pseudo-instruction (30_encoding.md R86). -/
def expand : Pseudo → List Instr
  | .key bytes => keyCommands bytes
  | .genn n => List.replicate n .gen
  | .xors bytes => bytes.map fun d => .xor d
  | .rc4gen key n => keyCommands key ++ .ksa :: List.replicate n .gen
  | .rc4xform key data => keyCommands key ++ .ksa :: data.map fun d => .xor d

/-- The words of a pseudo-instruction. -/
def expandWords (p : Pseudo) : List Word := (expand p).map encode

/-- A word that takes one keystream byte: `GEN`, or `XOR` with a data byte (43_xform.md R165). -/
def keystreamWord : Option Byte → Word
  | none => encode .gen
  | some d => encode (.xor d)

/-- The response that the keystream byte `k` gives such a word: OK with `k`, or with the data byte combined
(42_prga.md R141, 43_xform.md R160). -/
def keystreamResponse : Option Byte → Byte → Word
  | none, k => k.setWidth 16
  | some d, k => (d ^^^ k).setWidth 16

/-- The host presents the words one after another and takes every response: the responses, in order, and the
state at the end; nothing, if the machine stops (30_encoding.md R75). It is used from a command boundary: in a
state with a command in progress, a step completes that command first and the word waits. -/
def runWords : List Word → State → Option (List Word × State)
  | [], s => some ([], s)
  | w :: ws, s =>
    match step (presentWord w s) with
    | .next t => (runWords ws t).map fun r => (t.RSP :: r.1, r.2)
    | .fault _ => none
    | .refused _ => none

end Sys2Proof.Machine
end

