-- ==== Sys2Proof/Machine/Assembler.lean ====
section
/-! DEFINITION. The assembler's notation (30_encoding.md R85, R86; log entry 16): a line, as a list of
characters, to the commands it stands for. Blanks are spaces and tabs; a line that holds no command stands for
none. -/

namespace Sys2Proof.Machine

/-- Spaces and tabs (log entry 16). -/
def isBlank (c : Char) : Bool := c == ' ' || c == Char.ofNat 9

/-- The characters without the blanks before them. -/
def skipBlanks (cs : List Char) : List Char := cs.dropWhile isBlank

/-- Nothing is left but blanks and a comment, which starts with `;` (30_encoding.md R85). -/
def atLineEnd (cs : List Char) : Bool :=
  match skipBlanks cs with
  | [] => true
  | c :: _ => c == ';'

/-- The value of a hexadecimal digit, in either case (log entry 16). -/
def hexDigit (c : Char) : Option Nat :=
  let n := c.toNat
  if 48 ≤ n ∧ n ≤ 57 then some (n - 48)
  else if 65 ≤ n ∧ n ≤ 70 then some (n - 55)
  else if 97 ≤ n ∧ n ≤ 102 then some (n - 87)
  else none

/-- The value of a decimal digit. -/
def decDigit (c : Char) : Option Nat :=
  let n := c.toNat
  if 48 ≤ n ∧ n ≤ 57 then some (n - 48) else none

/-- The number written by digits of the given base, on top of what was read before. -/
def digitsFrom (digit : Char → Option Nat) (base : Nat) : Nat → List Char → Option Nat
  | acc, [] => some acc
  | acc, c :: cs =>
    match digit c with
    | some d => digitsFrom digit base (acc * base + d) cs
    | none => none

/-- A decimal number of at least one digit. -/
def decimal (cs : List Char) : Option Nat :=
  match cs with
  | [] => none
  | _ :: _ => digitsFrom decDigit 10 0 cs

/-- The ASCII code of a character (30_encoding.md R85). -/
def ascii (c : Char) : Option Byte :=
  if c.toNat < 128 then some (BitVec.ofNat 8 c.toNat) else none

/-- The single quote, 0x27. -/
def quote : Char := Char.ofNat 39

/-- The double quote, 0x22. -/
def doubleQuote : Char := Char.ofNat 34

/-- A byte literal that is a number: `0x` and one or two hexadecimal digits, or a decimal number 0..255
(30_encoding.md R85). -/
def numberLiteral (cs : List Char) : Option Byte :=
  match cs with
  | '0' :: 'x' :: ds =>
    if ds.length = 1 ∨ ds.length = 2 then (digitsFrom hexDigit 16 0 ds).map (BitVec.ofNat 8) else none
  | _ =>
    match decimal cs with
    | some n => if n ≤ 255 then some (BitVec.ofNat 8 n) else none
    | none => none

/-- The characters that end a number or a mnemonic. -/
def endsToken (c : Char) : Bool := isBlank c || c == ';' || c == ','

/-- One byte literal at the front of the characters, and what follows it (30_encoding.md R85). -/
def byteLiteral (cs : List Char) : Option (Byte × List Char) :=
  let number := (numberLiteral (cs.takeWhile fun c => !endsToken c)).map
    fun b => (b, cs.dropWhile fun c => !endsToken c)
  match cs with
  | q :: c :: q' :: rest => if q = quote ∧ q' = quote then (ascii c).map fun b => (b, rest) else number
  | _ => number

/-- The characters of a text up to its closing double quote, as ASCII codes, and what follows it. -/
def textBody : List Char → Option (List Byte × List Char)
  | [] => none
  | c :: cs =>
    if c = doubleQuote then some ([], cs)
    else
      match ascii c, textBody cs with
      | some b, some (bs, rest) => some (b :: bs, rest)
      | _, _ => none

/-- An operand of a pseudo-instruction: a byte literal, or a text in double quotes (30_encoding.md R86). -/
inductive Operand where
  /-- A byte literal. -/
  | byte (b : Byte)
  /-- A text, as its ASCII codes. -/
  | text (bs : List Byte)
  /-- A decimal number that is no byte, for the counts of `GENN` and `RC4GEN`. -/
  | number (n : Nat)
deriving DecidableEq, Repr

/-- One operand at the front of the characters, and what follows it. -/
def operand (cs : List Char) : Option (Operand × List Char) :=
  match cs with
  | [] => none
  | c :: rest =>
    if c = doubleQuote then (textBody rest).map fun r => (.text r.1, r.2)
    else
      match byteLiteral cs with
      | some (b, after) => some (.byte b, after)
      | none =>
        (decimal (cs.takeWhile fun c => !endsToken c)).map
          fun n => (.number n, cs.dropWhile fun c => !endsToken c)

/-- Operands separated by commas, to the end of the line, at most `fuel` of them. -/
def operands : (fuel : Nat) → List Char → Option (List Operand)
  | 0, _ => none
  | fuel + 1, cs =>
    match operand (skipBlanks cs) with
    | none => none
    | some (x, after) =>
      if atLineEnd after then some [x]
      else
        match skipBlanks after with
        | ',' :: more => (operands fuel more).map fun xs => x :: xs
        | _ => none

/-- The operands that are bytes, all of them. -/
def allBytes : List Operand → Option (List Byte)
  | [] => some []
  | .byte b :: xs => (allBytes xs).map fun bs => b :: bs
  | .text _ :: _ => none
  | .number _ :: _ => none

/-- A sequence of bytes: one text, or byte literals (30_encoding.md R86). DESIGN CHOICE: at least one literal is asked
for, so that a bare `KEY` or `XORS` is not read; a sequence of no byte is written as the empty text (log entry 16). -/
def byteSequence (xs : List Operand) : Option (List Byte) :=
  match xs with
  | [.text bs] => some bs
  | [] => none
  | _ :: _ => allBytes xs

/-- A count: a byte literal or a larger decimal number. -/
def count : Operand → Option Nat
  | .byte b => some b.toNat
  | .number n => some n
  | .text _ => none

/-- A pseudo-instruction from its mnemonic and operands (30_encoding.md R86). `RC4XFORM` is read with a text key
or with a text of data, so that the line shows where the key ends (log entry 16). -/
def pseudoOf (mnemonic : List Char) (xs : List Operand) : Option Pseudo :=
  if mnemonic = ['K', 'E', 'Y'] then (byteSequence xs).map fun bs => .key bs
  else if mnemonic = ['X', 'O', 'R', 'S'] then (byteSequence xs).map fun bs => .xors bs
  else if mnemonic = ['G', 'E', 'N', 'N'] then
    match xs with
    | [x] => (count x).map fun n => .genn n
    | _ => none
  else if mnemonic = ['R', 'C', '4', 'G', 'E', 'N'] then
    match xs.reverse with
    | [] => none
    | x :: key =>
      match byteSequence key.reverse, count x with
      | some k, some n => some (.rc4gen k n)
      | _, _ => none
  else if mnemonic = ['R', 'C', '4', 'X', 'F', 'O', 'R', 'M'] then
    match xs with
    | .text k :: data => (byteSequence data).map fun d => .rc4xform k d
    | _ =>
      match xs.reverse with
      | .text d :: key => (byteSequence key.reverse).map fun k => .rc4xform k d
      | _ => none
  else none

/-- The commands that take no operand, by mnemonic. -/
def plainCommand (mnemonic : List Char) : Option Instr :=
  if mnemonic = ['N', 'O', 'P'] then some .nop
  else if mnemonic = ['K', 'C', 'L', 'R'] then some .kclr
  else if mnemonic = ['K', 'S', 'A'] then some .ksa
  else if mnemonic = ['G', 'E', 'N'] then some .gen
  else if mnemonic = ['R', 'D', 'S', 'T', 'A', 'T'] then some .rdstat
  else if mnemonic = ['R', 'D', 'K', 'L', 'E', 'N'] then some .rdklen
  else none

/-- The commands that take a byte, by mnemonic (30_encoding.md R85). -/
def byteCommand (mnemonic : List Char) : Option (Byte → Instr) :=
  if mnemonic = ['K', 'P', 'U', 'S', 'H'] then some Instr.kpush
  else if mnemonic = ['X', 'O', 'R'] then some Instr.xor
  else none

/-- The commands a line stands for (30_encoding.md R85, R86). -/
def assembleLine (line : List Char) : Option (List Instr) :=
  let cs := skipBlanks line
  let mnemonic := cs.takeWhile fun c => !endsToken c
  let rest := cs.dropWhile fun c => !endsToken c
  if atLineEnd cs then some []
  else
    match plainCommand mnemonic with
    | some i => if atLineEnd rest then some [i] else none
    | none =>
      match byteCommand mnemonic with
      | some mk =>
        match byteLiteral (skipBlanks rest) with
        | some (b, after) => if atLineEnd after then some [mk b] else none
        | none => none
      | none =>
        match operands (rest.length + 1) rest with
        | some xs => (pseudoOf mnemonic xs).map expand
        | none => none

/-- The command words of the lines of a program, in order (30_encoding.md R85). -/
def assemble : List (List Char) → Option (List Word)
  | [] => some []
  | line :: lines =>
    match assembleLine line, assemble lines with
    | some is, some ws => some (is.map encode ++ ws)
    | _, _ => none

end Sys2Proof.Machine
end

