-- ==== Sys2Proof/Machine/Reference.lean ====
section
/-! DEFINITION. The two calls of the algorithm that the block is mapped to, written over whole keys and over
functions from indices to bytes, with no register, buffer or command in them: `generate_keystream(key, length)`
(42_prga.md R148) and `transform(data, key)` (43_xform.md R163). A key is a list of any length (00_scope.md R8);
`none` stands for `InvalidKey`. -/

namespace Sys2Proof.Reference

/-- A permutation array as a function of the index. -/
abbrev Array8 := Byte → Byte

/-- The exchange of two entries (00_scope.md R14). -/
def swap (S : Array8) (p q : Byte) : Array8 := fun n => if n = p then S q else if n = q then S p else S n

/-- Key byte `key[n mod key_length]` (41_ksa.md R121). -/
def keyByte (key : List Byte) (n : Nat) : Byte := key.getD (n % key.length) 0#8

/-- The array and j after n iterations of the key schedule with key bytes E (41_ksa.md R120, R122). -/
def ksa (E : Nat → Byte) : Nat → Array8 × Byte
  | 0 => (fun n => n, 0#8)
  | n + 1 =>
    let S := (ksa E n).1
    let j := (ksa E n).2 + S (BitVec.ofNat 8 n) + E n
    (swap S (BitVec.ofNat 8 n) j, j)

/-- The generator's state: the array and the two indices. -/
structure Generator where
  /-- The permutation array. -/
  S : Array8
  /-- The index i. -/
  i : Byte
  /-- The index j. -/
  j : Byte

/-- The generator after the key schedule, its indices reset (41_ksa.md R126). -/
def start (key : List Byte) : Generator := { S := (ksa (keyByte key) Config.entriesOfS).1, i := 0#8, j := 0#8 }

/-- One PRGA step (42_prga.md R140). -/
def next (g : Generator) : Generator :=
  let i := g.i + 1#8
  let j := g.j + g.S i
  { S := swap g.S i j, i := i, j := j }

/-- The byte a generator shows after a step: `S[(S[i] + S[j]) mod 256]` (42_prga.md R140, R142). -/
def output (g : Generator) : Byte := g.S (g.S g.i + g.S g.j)

/-- The next n keystream bytes. -/
def stream : Nat → Generator → List Byte
  | 0, _ => []
  | n + 1, g => output (next g) :: stream n (next g)

/-- `generate_keystream(key, length)` (42_prga.md R148): an empty key is `InvalidKey` for any length. -/
def generateKeystream (key : List Byte) (length : Nat) : Option (List Byte) :=
  match key with
  | [] => none
  | _ :: _ => some (stream length (start key))

/-- `transform(data, key)` (43_xform.md R163). -/
def transform (data key : List Byte) : Option (List Byte) :=
  (generateKeystream key data.length).map fun ks => List.zipWith (fun d k => d ^^^ k) data ks

end Sys2Proof.Reference
end

