-- ==== Sys2Proof/Machine/System.lean ====
section
/-! DEFINITION. Any number of instances side by side (20_memory.md R62, 60_exceptions.md R216): they share
nothing, and a step of the system is a step of one of them. -/

namespace Sys2Proof.Machine

/-- The instances of a system, each with its own state; the position in the list is no identifier the block
knows (60_exceptions.md R216). -/
abbrev Instances := List State

/-- Instance n takes a step; nothing, if there is no such instance or it stops. -/
def stepInstance (n : Nat) (sys : Instances) : Option Instances :=
  match sys[n]? with
  | none => none
  | some s =>
    match step s with
    | .next t => some (sys.set n t)
    | .fault _ => none
    | .refused _ => none

end Sys2Proof.Machine
end

