-- ==== Sys2Proof/Machine/Clock.lean ====
section
/-! DEFINITION. The signal level: ports, outputs and one rising clock edge (30_encoding.md R70 to R76,
10_state.md R32, 70_reset_and_hazards.md R240 to R246). The open latencies and the schedule of the KSA loop come
in as a `Timing` (00_scope.md R10, 20_memory.md R56). The state is that of the transaction level; this level
never touches its `host` field, since the host's pins are the argument of each edge. -/

namespace Sys2Proof.Machine

/-- The input pins sampled at a rising edge of `clk` (30_encoding.md R70, R71). -/
structure PortsIn where
  /-- `rst`, active high. -/
  rst : Bool
  /-- `cmd_valid`. -/
  cmdValid : Bool
  /-- `cmd_word`. -/
  cmdWord : Word
  /-- `rsp_ready`. -/
  rspReady : Bool
deriving DecidableEq, Repr

/-- The output pins in a cycle (30_encoding.md R70). -/
structure PortsOut where
  /-- `cmd_ready`. -/
  cmdReady : Bool
  /-- `rsp_valid`. -/
  rspValid : Bool
  /-- `rsp_word`. -/
  rspWord : Word
deriving DecidableEq, Repr

/-- `PHASE` = `IDLE`. -/
def Phase.isIdle : Phase → Bool
  | .idle => true
  | .exec _ => false
  | .resp => false

/-- `PHASE` = `RESP`. -/
def Phase.isResp : Phase → Bool
  | .idle => false
  | .exec _ => false
  | .resp => true

/-- `cmd_ready` (30_encoding.md R73): `PHASE` = `IDLE`, `rst` = 0, and the cycles of `LAT_RESET` have passed since `rst`
was last 1. Whether they count from that edge (R73) or from the first edge with `rst` = 0 (70_reset_and_hazards.md
R240, R242) is the parameter `resetCount` (log entry 7). -/
def cmdReady (T : Timing) (rst : Bool) (s : State) : Bool :=
  s.PHASE.isIdle && !rst && decide (T.resetWait ≤ s.sinceReset)

/-- `rsp_valid` (10_state.md R32, 30_encoding.md R74). -/
def rspValid (s : State) : Bool := s.PHASE.isResp

/-- `rsp_word`: the response while it is valid, a free value otherwise (30_encoding.md R74, R76; log entry 11). -/
def rspWord (s : State) : Word :=
  if rspValid s then s.RSP else Config.rspWordWhileInvalid s.draws

/-- The output pins (30_encoding.md R70). -/
def outputs (T : Timing) (x : PortsIn) (s : State) : PortsOut :=
  { cmdReady := cmdReady T x.rst s, rspValid := rspValid s, rspWord := rspWord s }

/-- The word is `KSA`. -/
def isKsaWord (w : Word) : Bool := decode w == .command .ksa

/-- The latency of a word (00_scope.md R10); an ILLEGAL word is of "every other command" (log entry 8). -/
def latencyOf (T : Timing) (w : Word) : Nat :=
  match decode w with
  | .command .ksa => T.latKsa
  | .command .gen => T.latStep
  | .command (.xor _) => T.latStep
  | .command .nop => T.latCtrl
  | .command .kclr => T.latCtrl
  | .command (.kpush _) => T.latCtrl
  | .command .rdstat => T.latCtrl
  | .command .rdklen => T.latCtrl
  | .illegal _ => T.latCtrl

/-- The KSA loop runs for this word: it is `KSA` and there is a key (41_ksa.md R120, R129). -/
def loopRuns (w : Word) (s : State) : Bool := isKsaWord w && s.KEYLEN != 0#9

/-- Acceptance: `IDLE` to `EXEC` with the word sampled (30_encoding.md R72); a loop that runs is initialised. -/
def acceptWord (w : Word) (s : State) : State :=
  enterPhase (.exec { cmd := w, cycles := 0, ksaCount := 0 }) (if loopRuns w s then ksaBegin s else s)

/-- The last cycle of `EXEC`: the command completes (10_state.md R32). A loop that runs does its remaining
iterations here (log entry 9); every other command makes its state change here. -/
def completeWord (p : InProgress) (s : State) : Host.Outcome State Fault Refusal :=
  if loopRuns p.cmd s then .next (ksaEnd (ksaMicroSteps (256 - p.ksaCount) p.ksaCount s))
  else runWord p.cmd s

/-- The iterations done in the cycle under way, never more than are left (log entry 9). -/
def iterationsNow (T : Timing) (p : InProgress) (s : State) : Nat :=
  if loopRuns p.cmd s then min (T.ksaRate p.cycles) (256 - p.ksaCount) else 0

/-- Any other cycle of `EXEC`. -/
def progressWord (T : Timing) (p : InProgress) (s : State) : State :=
  enterPhase (.exec { p with cycles := p.cycles + 1, ksaCount := p.ksaCount + iterationsNow T p s })
    (ksaMicroSteps (iterationsNow T p s) p.ksaCount s)

/-- The counts of an edge with `rst` = 0. -/
def tick (s : State) : State := { s with sinceReset := s.sinceReset + 1, draws := s.draws + 1 }

/-- One rising edge of `clk` (10_state.md R32; 30_encoding.md R71, R72, R74; 70_reset_and_hazards.md R240). -/
def edge (T : Timing) (x : PortsIn) (s : State) : Host.Outcome State Fault Refusal :=
  if x.rst then .next (applyReset s)
  else
    match s.PHASE with
    | .idle =>
      if x.cmdValid && cmdReady T x.rst s then .next (acceptWord x.cmdWord (tick s)) else .next (tick s)
    | .exec p =>
      if latencyOf T p.cmd ≤ p.cycles + 1 then completeWord p (tick s) else .next (progressWord T p (tick s))
    | .resp => if x.rspReady then .next (takeResponse (tick s)) else .next (tick s)

/-- A run of edges, one input a cycle. -/
def edges (T : Timing) : List PortsIn → State → Host.Outcome State Fault Refusal
  | [], s => .next s
  | x :: xs, s =>
    match edge T x s with
    | .next t => edges T xs t
    | .fault r => .fault r
    | .refused r => .refused r

/-- The host's duty between one cycle and the next (70_reset_and_hazards.md R245): an offer that was not
accepted stands unchanged. -/
def offerHeld (T : Timing) (s : State) (x y : PortsIn) : Bool :=
  if x.cmdValid && !cmdReady T x.rst s then y.cmdValid && y.cmdWord == x.cmdWord else true

/-- The inputs of a run keep the duty of R245 at every cycle. -/
def offersHeld (T : Timing) : List PortsIn → State → Bool
  | [], _ => true
  | [_], _ => true
  | x :: y :: rest, s =>
    offerHeld T s x y &&
      match edge T x s with
      | .next t => offersHeld T (y :: rest) t
      | .fault _ => true
      | .refused _ => true

end Sys2Proof.Machine
end

