-- ==== Sys2Proof/Safety.lean ====
section
/-! DEFINITION. What holds of every state a run can be in, and what a host can tell apart. -/

namespace Sys2Proof.Safety

open Sys2Proof.Machine

/-- Each value 0..255 occurs exactly once in the array: it is a bijection on 0..255 (10_state.md R22). -/
def IsPermutation (a : Table) : Prop :=
  ∀ v : Byte, ∃ n : Byte, readEntry a n = v ∧ ∀ m : Byte, readEntry a m = v → m = n

/-- The invariant of the block: `KEYLEN` is at most 256 (10_state.md R26), a keyed block has a key (R29), and a
keyed block's `S` is a permutation (R22). -/
structure Inv (s : State) : Prop where
  /-- "It is never greater than 256" (10_state.md R26). -/
  keylen_le : s.KEYLEN.toNat ≤ 256
  /-- "`READY` = 1 implies `KEYLEN` ≥ 1" (10_state.md R29). -/
  keyed_has_key : s.READY = true → 1 ≤ s.KEYLEN.toNat
  /-- "whenever `READY` = 1, `S` is a bijection on {0..255}" (10_state.md R22). -/
  keyed_permutation : s.READY = true → IsPermutation s.S

/-- The invariant of the signal level: that of the block, and while the KSA loop runs, `S` and `j` are what the
iterations done so far give (41_ksa.md R129). -/
structure ClockInv (s : State) : Prop where
  /-- The invariant of the block. -/
  inv : Inv s
  /-- A running loop has done what its count says. -/
  loop_state : ∀ p : InProgress, s.PHASE = .exec p → loopRuns p.cmd s = true →
    p.ksaCount ≤ 256 ∧ (s.S, s.j) = ksaLoop (cyclicKey s) p.ksaCount

/-- No command is in progress: the state is at a command boundary (20_memory.md R55). -/
def AtBoundary (s : State) : Prop := s.PHASE = .idle ∨ s.PHASE = .resp

/-- Two states that differ at most in what no rule lets a host see (10_state.md R33, R35): the entries of `K`
from `KEYLEN` on, and `S`, `i` and `j` while `READY` = 0. Their responses waiting, counts and host sides may
differ too. -/
structure LookAlike (s t : State) : Prop where
  /-- The keyed flags agree. -/
  ready_eq : s.READY = t.READY
  /-- The key lengths agree. -/
  keylen_eq : s.KEYLEN = t.KEYLEN
  /-- The key bytes in use agree. -/
  key_eq : ∀ n : Byte, n.toNat < s.KEYLEN.toNat → readEntry s.K n = readEntry t.K n
  /-- A keyed block's generator agrees. -/
  generator_eq : s.READY = true → s.S = t.S ∧ s.i = t.i ∧ s.j = t.j

end Sys2Proof.Safety
end

