-- ==== Sys2Proof/Certificates/Slice0/Obligations.lean ====
section
/-! DEFINITION. The statements for the provers. Response words are written as numbers, and arrays are compared
entry by entry, so that a statement says what a host or a reader of the rule would see. -/

open Sys2Proof Sys2Proof.Machine Sys2Proof.Safety

/-! ### Encoding and decoding -/

/-- 30_encoding.md R82, R83: a word decodes to a command exactly when it is that command's encoding, so every
command comes back from its word with its operand, and no legal word has a second spelling. -/
def Obligations.DecodeAndEncodeAreInverse : Prop :=
  ∀ (w : Word) (i : Instr), decode w = .command i ↔ w = encode i

/-- 30_encoding.md R82: at most one row of the opcode map selects a word; a word is a command exactly when some
row selects it, the row of that command; and the operand is bits 7:0 (R79). -/
def Obligations.DecodeFollowsTheOpcodeMap : Prop :=
  ∀ w : Word,
    (∀ r ∈ opcodeMap, ∀ r' ∈ opcodeMap, r.selects w = true → r'.selects w = true → r = r') ∧
    (∀ i : Instr, decode w = .command i →
      (∃ r ∈ opcodeMap, r.selects w = true ∧ r.mnemonic = i.mnemonic) ∧
      ∀ b : Byte, i.operand = some b → b.toNat = w.toNat % 256) ∧
    (∀ r ∈ opcodeMap, r.selects w = true → ∃ i : Instr, decode w = .command i ∧ i.mnemonic = r.mnemonic)

/-- 30_encoding.md R84, 60_exceptions.md R201: the three causes that make a word illegal, and no other; an illegal
word raises `E_ILLEGAL` and changes and saves nothing else; the only word that is `NOP` is 0x0000. -/
def Obligations.IllegalWordsAreExactlyThree : Prop :=
  ∀ w : Word,
    ((∃ why, decode w = .illegal why) ↔
      (w.toNat / 256 % 16 ≠ 0 ∨ 8 ≤ w.toNat / 4096 ∨
        ((w.toNat / 4096 ≠ 2 ∧ w.toNat / 4096 ≠ 5) ∧ w.toNat % 256 ≠ 0))) ∧
    (∀ (why : IllegalWord) (s : State), decode w = .illegal why →
      runWord w s = .next { s with PHASE := .resp, RSP := 0x1000#16 }) ∧
    (decode w = .command .nop ↔ w = 0x0000#16)

/-- 95_test_vectors.md section 3: one word of every command, and one of every cause of illegality. -/
def Obligations.SpecWordsDecodeAsListed : Prop :=
  decode 0x0000#16 = .command .nop ∧ decode 0x1000#16 = .command .kclr ∧
  decode 0x20FF#16 = .command (.kpush 0xFF#8) ∧ decode 0x3000#16 = .command .ksa ∧
  decode 0x4000#16 = .command .gen ∧ decode 0x5080#16 = .command (.xor 0x80#8) ∧
  decode 0x6000#16 = .command .rdstat ∧ decode 0x7000#16 = .command .rdklen ∧
  decode 0x5A55#16 = .illegal .reservedFieldNotZero ∧ decode 0xA0FF#16 = .illegal .reservedOpcode ∧
  decode 0x30FF#16 = .illegal .operandNotZero

/-- 30_encoding.md R80, R81: the fields of a response word, and the number of each status. -/
def Obligations.ResponseWordHasThreeFields : Prop :=
  (∀ (st : Status) (d : Byte), stOf (responseWord st d) = st.code ∧ rsvOf (responseWord st d) = 0#4 ∧
    dataOf (responseWord st d) = d) ∧
  Status.ok.code = 0x0#4 ∧ Status.illegal.code = 0x1#4 ∧ Status.invalidKey.code = 0x2#4 ∧
  Status.notKeyed.code = 0x3#4 ∧ Status.keyLocked.code = 0x4#4

/-! ### The commands, each whole: its word, its effect, its frame -/

/-- 44_control.md R180. -/
def Obligations.NopRespondsOk : Prop :=
  encode .nop = 0x0000#16 ∧ ∀ s : State, exec .nop s = .next { s with PHASE := .resp, RSP := 0x0000#16 }

/-- 40_key.md R100: `S`, `i`, `j` and every entry of `K` stay, in every state; the derived flags follow, and RDSTAT
shows them; the ill-formed word 0x1001 is not `KCLR`; a `GEN` afterwards raises `E_NOT_KEYED`; what `S`, `i`, `j` and
`K` held is out of the host's sight: any two states after a `KCLR` look alike to it. -/
def Obligations.KclrClearsTheKey : Prop :=
  encode .kclr = 0x1000#16 ∧ (∃ why, decode 0x1001#16 = .illegal why) ∧
  ∀ s : State, ∃ t : State, exec .kclr s = .next t ∧
    t = { s with KEYLEN := 0#9, READY := false, PHASE := .resp, RSP := 0x0000#16 } ∧
    kempty t = true ∧ kfull t = false ∧
    exec .gen t = .next { t with RSP := 0x3000#16 } ∧
    exec .rdstat t = .next { t with RSP := 0x0004#16 } ∧
    ∀ s' t' : State, exec .kclr s' = .next t' → LookAlike t t'

/-- 40_key.md R101, R102: with `READY` = 0 the byte goes to entry `KEYLEN` and no other, unless the buffer is full,
and then nothing is stored; with `READY` = 1 the command is refused whatever `KEYLEN` is, and changes nothing. -/
def Obligations.KpushAppendsDiscardsOrIsLocked : Prop :=
  ∀ (b : Byte) (s : State),
    encode (.kpush b) = 0x2000#16 ||| b.setWidth 16 ∧
    (s.READY = false → s.KEYLEN.toNat < 256 → ∃ t : State, exec (.kpush b) s = .next t ∧
      (∀ n : Byte, readEntry t.K n = if n.toNat = s.KEYLEN.toNat then b else readEntry s.K n) ∧
      t.KEYLEN.toNat = s.KEYLEN.toNat + 1 ∧ kempty t = false ∧ (kfull t = true ↔ s.KEYLEN.toNat = 255) ∧
      t = { s with K := t.K, KEYLEN := t.KEYLEN, PHASE := .resp, RSP := 0x0000#16 }) ∧
    (s.READY = false → s.KEYLEN.toNat = 256 →
      exec (.kpush b) s = .next { s with PHASE := .resp, RSP := 0x0000#16 }) ∧
    (s.READY = true → exec (.kpush b) s = .next { s with PHASE := .resp, RSP := 0x4000#16 })

/-- 41_ksa.md R120: with a key, `S` becomes the schedule of the cyclic key, entry by entry, as the algorithm over
functions gives it after its 256 iterations; `i` and `j` are 0 and `READY` is 1; `K` and `KEYLEN` stay. With an
empty key, nothing but the response changes. -/
def Obligations.KsaSchedulesTheKey : Prop :=
  encode .ksa = 0x3000#16 ∧
  ∀ s : State,
    (s.KEYLEN ≠ 0#9 → ∃ t : State, exec .ksa s = .next t ∧
      (∀ n : Byte, readEntry t.S n =
        (Reference.ksa (fun m => readEntry s.K (BitVec.ofNat 8 (m % s.KEYLEN.toNat))) Config.entriesOfS).1 n) ∧
      t = { s with S := t.S, i := 0#8, j := 0#8, READY := true, PHASE := .resp, RSP := 0x0000#16 }) ∧
    (s.KEYLEN = 0#9 → exec .ksa s = .next { s with PHASE := .resp, RSP := 0x2000#16 })

/-- 42_prga.md R140, R141: i is incremented first, both entries are read before the swap, the output is read from
the swapped array; every other entry and register stays. Without a scheduled key nothing but the response
changes. -/
def Obligations.GenTakesOnePrgaStep : Prop :=
  encode .gen = 0x4000#16 ∧
  ∀ s : State,
    (s.READY = true →
      let i' := s.i + 1#8
      let a := readEntry s.S i'
      let j' := s.j + a
      let b := readEntry s.S j'
      ∃ t : State, exec .gen s = .next t ∧
        (∀ n : Byte, readEntry t.S n = if n = i' then b else if n = j' then a else readEntry s.S n) ∧
        t = { s with
          S := t.S, i := i', j := j', PHASE := .resp
          RSP := (readEntry t.S (readEntry t.S i' + readEntry t.S j')).setWidth 16 }) ∧
    (s.READY = false → exec .gen s = .next { s with PHASE := .resp, RSP := 0x3000#16 })

/-- 43_xform.md R160: the step of `GEN`, its byte combined with the operand; `XOR 0x00` is `GEN`. -/
def Obligations.XorCombinesOnePrgaStep : Prop :=
  ∀ (d : Byte) (s : State),
    encode (.xor d) = 0x5000#16 ||| d.setWidth 16 ∧
    exec (.xor 0x00#8) s = exec .gen s ∧
    (s.READY = true →
      let i' := s.i + 1#8
      let a := readEntry s.S i'
      let j' := s.j + a
      let b := readEntry s.S j'
      ∃ t : State, exec (.xor d) s = .next t ∧
        (∀ n : Byte, readEntry t.S n = if n = i' then b else if n = j' then a else readEntry s.S n) ∧
        t = { s with
          S := t.S, i := i', j := j', PHASE := .resp
          RSP := (d ^^^ readEntry t.S (readEntry t.S i' + readEntry t.S j')).setWidth 16 }) ∧
    (s.READY = false → exec (.xor d) s = .next { s with PHASE := .resp, RSP := 0x3000#16 })

/-- 44_control.md R181, 10_state.md R28, R30: bit 0 `READY`, bit 1 `KEYLEN` = 256, bit 2 `KEYLEN` = 0. -/
def Obligations.RdstatReportsStatus : Prop :=
  encode .rdstat = 0x6000#16 ∧
  ∀ s : State, exec .rdstat s = .next { s with
    PHASE := .resp
    RSP := BitVec.ofNat 16
      ((if s.READY then 1 else 0) + (if s.KEYLEN.toNat = 256 then 2 else 0) + (if s.KEYLEN.toNat = 0 then 4 else 0)) }

/-- 44_control.md R182: the low 8 bits of `KEYLEN`; 256 reads as 0x00. -/
def Obligations.RdklenReportsTheKeyLength : Prop :=
  encode .rdklen = 0x7000#16 ∧
  ∀ s : State, exec .rdklen s = .next { s with PHASE := .resp, RSP := BitVec.ofNat 16 (s.KEYLEN.toNat % 256) }

/-! ### Errors -/

/-- 60_exceptions.md R206: which word raises which status, in every state. Every word completes. -/
def Obligations.EachWordRaisesTheTabledStatus : Prop :=
  ∀ (w : Word) (s : State), ∃ t : State, runWord w s = .next t ∧ t.PHASE = .resp ∧
    stOf t.RSP =
      match decode w with
      | .illegal _ => 0x1#4
      | .command (.kpush _) => if s.READY then 0x4#4 else 0x0#4
      | .command .ksa => if s.KEYLEN.toNat = 0 then 0x2#4 else 0x0#4
      | .command .gen => if s.READY then 0x0#4 else 0x3#4
      | .command (.xor _) => if s.READY then 0x0#4 else 0x3#4
      | .command .nop => 0x0#4
      | .command .kclr => 0x0#4
      | .command .rdstat => 0x0#4
      | .command .rdklen => 0x0#4

/-- 60_exceptions.md R200, R209, R219: a response that is not OK carries 0x00, and nothing else has changed; the
response taken, the block is idle with the state it had. -/
def Obligations.ErrorsChangeNothingElse : Prop :=
  ∀ (w : Word) (s t : State), runWord w s = .next t → stOf t.RSP ≠ 0#4 →
    dataOf t.RSP = 0#8 ∧ rsvOf t.RSP = 0#4 ∧
    t = { s with PHASE := .resp, RSP := t.RSP } ∧
    takeResponse t = { s with PHASE := .idle, RSP := t.RSP }

/-! ### The step -/

/-- 30_encoding.md R72, R75; 20_memory.md R58: at a command boundary, with a word presented that decodes to a
command, the step is that command's meaning. That the word is the next entry of the list `host`, which the step
consumes, and that a waiting response is taken in the same step, is the model's choice (log entries 4 and 5). -/
def Obligations.StepRunsTheDecodedCommand : Prop :=
  ∀ (s : State) (w : Word) (rest : List HostEvent) (i : Instr),
    AtBoundary s → s.host = .command w :: rest → decode w = .command i →
    step s = exec i { s with PHASE := .idle, host := rest }

/-- 60_exceptions.md R201: an ill-formed word completes with `E_ILLEGAL`, and no other state changes. That the step
consumes the word from the list `host` and takes a waiting response first is the model's choice (log entries 4 and
5). -/
def Obligations.StepAnswersIllegalWords : Prop :=
  ∀ (s : State) (w : Word) (rest : List HostEvent) (why : IllegalWord),
    AtBoundary s → s.host = .command w :: rest → decode w = .illegal why →
    step s = .next { s with PHASE := .resp, RSP := 0x1000#16, host := rest }

/-- The model's transaction level (log entries 4, 10): a command in progress completes before another word is
accepted, and a block with nothing presented is idle and holds its state (60_exceptions.md R218). -/
def Obligations.StepFinishesOrIdles : Prop :=
  (∀ (s : State) (p : InProgress) (i : Instr),
    s.PHASE = .exec p → (∀ rest, s.host ≠ .reset :: rest) → decode p.cmd = .command i → step s = exec i s) ∧
  (∀ s : State, AtBoundary s → s.host = [] → step s = .next { s with PHASE := .idle })

/-- How the host's word is placed (log entry 5): with no hypothesis on the state, the next step runs exactly it. -/
def Obligations.PlacedWordRunsNext : Prop :=
  ∀ (s : State) (nbits w : Nat) (i : Instr), decodeTableWord nbits w = some i →
    step (s.withFetchWord nbits w) = exec i { s with PHASE := .idle }

/-- 10_state.md R34: the fields whose reset value the spec gives, the derived flags, and the handshake outputs: with
`rst` = 0, `cmd_ready` is 1 when `LAT_RESET` cycles have passed, as R73 counts them or as R242 does. That both are left
open is the model's choice (log entry 7). -/
def Obligations.ResetStateIsAsSpecified : Prop :=
  State.reset.READY = false ∧ State.reset.KEYLEN = 0#9 ∧ State.reset.i = 0#8 ∧ State.reset.j = 0#8 ∧
  State.reset.PHASE = .idle ∧ kfull State.reset = false ∧ kempty State.reset = true ∧
  rspValid State.reset = false ∧
  ∀ (T : Timing) (n : Nat), cmdReady T false { State.reset with sinceReset := n } =
    match T.resetCount with
    | .sinceRstWasLast1 => decide (T.latReset ≤ n)
    | .afterFirstEdge => decide (T.latReset + 1 ≤ n)

/-- 70_reset_and_hazards.md R240: an edge with `rst` = 1 has the same effect whatever the phase, and again however
long `rst` stays 1. `cmd_ready` is 0 after it while `rst` stays 1, and when `rst` does not, except with `LAT_RESET` = 0
counted as R73 counts (30_encoding.md); that both counts are left open is the model's choice (log entry 7). Of `S`, `K`
and `RSP` nothing is said. -/
def Obligations.ResetEdgeClearsTheBlock : Prop :=
  ∀ (T : Timing) (x : PortsIn) (s : State), x.rst = true → ∃ t : State, edge T x s = .next t ∧
    t.READY = false ∧ t.KEYLEN = 0#9 ∧ t.i = 0#8 ∧ t.j = 0#8 ∧ t.PHASE = .idle ∧ rspValid t = false ∧
    cmdReady T true t = false ∧
    (T.resetCount = .afterFirstEdge ∨ 1 ≤ T.latReset → cmdReady T false t = false) ∧
    t.sinceReset = 0 ∧ t.host = s.host

/-- 70_reset_and_hazards.md R241: at the transaction level, a reset abandons a command in progress and discards a
response that waits; the next step after it accepts the next word. The queue of host events is the model's (log
entries 5, 6). -/
def Obligations.ResetEventAbandonsTheCommand : Prop :=
  ∀ (s : State) (rest : List HostEvent), s.host = .reset :: rest → ∃ t : State, step s = .next t ∧
    t.READY = false ∧ t.KEYLEN = 0#9 ∧ t.i = 0#8 ∧ t.j = 0#8 ∧ t.PHASE = .idle ∧ rspValid t = false ∧
    t.host = rest ∧
    ∀ (w : Word) (later : List HostEvent) (c : Instr), rest = .command w :: later → decode w = .command c →
      step t = exec c { t with host := later }

/-! ### Invariants and rules of the whole machine -/

/-- 10_state.md R22, R26, R29 at reset. The invariant of the signal level is the model's choice (log entry 9). -/
def Obligations.ResetMeetsTheInvariant : Prop := Inv State.reset ∧ ClockInv State.reset

/-- 10_state.md R22, R26, R29: from every state that meets the invariant, a step leads to one that does. -/
def Obligations.EveryStepKeepsTheInvariant : Prop :=
  ∀ s t : State, Inv s → step s = .next t → Inv t

/-- 10_state.md R22, R26, R29 at the signal level, where the KSA loop is in the registers (41_ksa.md R129): every
clock edge, with any inputs and any timing, keeps the invariant. That inside `EXEC` the registers hold what the
iterations so far give is the model's choice (log entry 9): R129 says only that the command may be executed so. -/
def Obligations.EveryClockEdgeKeepsTheInvariant : Prop :=
  ∀ (T : Timing) (x : PortsIn) (s t : State), ClockInv s → edge T x s = .next t → ClockInv t

/-- 10_state.md R29: while the block is keyed before and after a step, the key does not change. -/
def Obligations.KeyIsImmutableWhileKeyed : Prop :=
  ∀ s t : State, step s = .next t → s.READY = true → t.READY = true →
    t.KEYLEN = s.KEYLEN ∧ ∀ n : Byte, readEntry t.K n = readEntry s.K n

/-- 10_state.md R21, R23 to R27: each register and array is written only by the commands its rule names, and by
them only as it says. -/
def Obligations.EachRegisterIsWrittenOnlyByItsCommands : Prop :=
  ∀ (i : Instr) (s t : State), exec i s = .next t →
    (t.READY ≠ s.READY → (i = .ksa ∧ t.READY = true) ∨ (i = .kclr ∧ t.READY = false)) ∧
    (t.KEYLEN ≠ s.KEYLEN → (i = .kclr ∧ t.KEYLEN = 0#9) ∨ ((∃ b, i = .kpush b) ∧ t.KEYLEN = s.KEYLEN + 1#9)) ∧
    (t.K ≠ s.K → ∃ b, i = .kpush b) ∧
    (t.S ≠ s.S ∨ t.j ≠ s.j ∨ t.i ≠ s.i → i = .ksa ∨ i = .gen ∨ ∃ d, i = .xor d) ∧
    (t.sinceReset = s.sinceReset ∧ t.host = s.host ∧ t.draws = s.draws)

/-- 10_state.md R30: STATUS takes only five values in states that meet the invariant, each in the case the rule
names. -/
def Obligations.StatusTakesFiveValues : Prop :=
  ∀ s : State, Inv s → ∃ t : State, exec .rdstat s = .next t ∧
    ((s.READY = true ∧ s.KEYLEN.toNat < 256 ∧ t.RSP = 0x0001#16) ∨
     (s.READY = false ∧ s.KEYLEN.toNat = 256 ∧ t.RSP = 0x0002#16) ∨
     (s.READY = true ∧ s.KEYLEN.toNat = 256 ∧ t.RSP = 0x0003#16) ∨
     (s.READY = false ∧ s.KEYLEN.toNat = 0 ∧ t.RSP = 0x0004#16) ∨
     (s.READY = false ∧ 1 ≤ s.KEYLEN.toNat ∧ s.KEYLEN.toNat ≤ 255 ∧ t.RSP = 0x0000#16))

/-- 10_state.md R33, R35: of two states that differ only in what the host cannot see (the contents of `S`, `i` and
`j` while not keyed, and of `K` beyond `KEYLEN`, whatever reset or an earlier session left there), every sequence
of words draws the same responses. -/
def Obligations.HiddenContentsReachNoResponse : Prop :=
  ∀ (ws : List Word) (s t : State), AtBoundary s → AtBoundary t → LookAlike s t →
    ∃ (rs : List Word) (s' t' : State), runWords ws s = some (rs, s') ∧ runWords ws t = some (rs, t') ∧
      LookAlike s' t'

/-- 44_control.md R183: a `NOP`, `RDSTAT` or `RDKLEN` between any two words responds OK and changes no other response
and no register or array. -/
def Obligations.ControlWordsMayStandAnywhere : Prop :=
  ∀ (before later : List Word) (w : Word) (s : State), AtBoundary s →
    (w = 0x0000#16 ∨ w = 0x6000#16 ∨ w = 0x7000#16) →
    ∃ (rs rs' : List Word) (r : Word) (t : State), rs.length = before.length ∧ stOf r = 0x0#4 ∧
      runWords (before ++ later) s = some (rs ++ rs', t) ∧
      ∃ t' : State, runWords (before ++ w :: later) s = some (rs ++ r :: rs', t') ∧
        t' = { t with PHASE := t'.PHASE, RSP := t'.RSP }

/-- 42_prga.md R147: a refused word (one whose response is an error) between any two words changes no other
response: it consumes no keystream. -/
def Obligations.RefusedWordsChangeNoOtherResponse : Prop :=
  ∀ (before later : List Word) (w r : Word) (s m m' : State) (rs : List Word), AtBoundary s →
    runWords before s = some (rs, m) → runWords [w] m = some ([r], m') → stOf r ≠ 0#4 →
    ∃ (rs' : List Word) (t t' : State), runWords (before ++ later) s = some (rs ++ rs', t) ∧
      runWords (before ++ w :: later) s = some (rs ++ r :: rs', t')

/-! ### Arrays, key schedule and generator -/

/-- 00_scope.md R14: both reads come before both writes; exchanging an entry with itself changes nothing. -/
def Obligations.SwapReadsBeforeItWrites : Prop :=
  ∀ (a : Table) (p q : Byte),
    (∀ n : Byte, readEntry (swapEntries a p q) n =
      if n = p then readEntry a q else if n = q then readEntry a p else readEntry a n) ∧
    swapEntries a p p = a

/-- 41_ksa.md R128: whatever `S` and the key bytes were, a `KSA` that finds a key leaves a permutation. -/
def Obligations.ScheduledArrayIsAPermutation : Prop :=
  ∀ s : State, s.KEYLEN ≠ 0#9 → ∃ t : State, exec .ksa s = .next t ∧ stOf t.RSP = 0x0#4 ∧ IsPermutation t.S

/-- 42_prga.md R146: the step of any array, and `GEN` and `XOR` on a keyed block. -/
def Obligations.PrgaStepKeepsThePermutation : Prop :=
  (∀ (S : Table) (i j : Byte), IsPermutation S → IsPermutation (prgaStep S i j).S) ∧
  (∀ (s : State) (d : Byte), s.READY = true → IsPermutation s.S →
    (∃ t : State, exec .gen s = .next t ∧ t.READY = true ∧ IsPermutation t.S) ∧
    (∃ t : State, exec (.xor d) s = .next t ∧ t.READY = true ∧ IsPermutation t.S))

/-- 42_prga.md R143: the bypass form reads the array before the swap and gives the same byte, for every array, a
permutation or not. -/
def Obligations.BypassMuxIsTheOutputMux : Prop :=
  ∀ (S : Table) (i j : Byte), bypassMux S i j = (prgaStep S i j).ks

/-- 42_prga.md R145: when j' = i' the array stays, and the byte is the entry at 2a mod 256. -/
def Obligations.SelfSwapStepReadsTwiceTheEntry : Prop :=
  ∀ (S : Table) (i j : Byte), j + readEntry S (i + 1#8) = i + 1#8 →
    (prgaStep S i j).S = S ∧
    (prgaStep S i j).ks = readEntry S (BitVec.ofNat 8 (2 * (readEntry S (i + 1#8)).toNat))

/-- 41_ksa.md R125. -/
def Obligations.KeyPointerIsTheRemainder : Prop :=
  ∀ len n : Nat, 1 ≤ len → keyPointer len n = n % len

/-- 41_ksa.md R129: the loop run one iteration at a time in the registers, in any two portions, ends in the state
of the atomic command. That the loop stands in the registers `S`, `i` and `j` is the model's choice (log entry 9). -/
def Obligations.LoopInPortionsIsTheCommand : Prop :=
  ∀ (s : State) (c : Nat), c ≤ 256 → s.KEYLEN ≠ 0#9 →
    exec .ksa s = .next (ksaEnd (ksaMicroSteps (256 - c) c (ksaMicroSteps c 0 (ksaBegin s))))

/-- 41_ksa.md R124: two keys with the same cyclic extension give the same generator; a key and its repetitions give the
same keystream. -/
def Obligations.OnlyTheCyclicExtensionCounts : Prop :=
  (∀ s s' t t' : State, s.KEYLEN ≠ 0#9 → s'.KEYLEN ≠ 0#9 →
    (∀ n : Nat, n < 256 → cyclicKey s n = cyclicKey s' n) →
    exec .ksa s = .next t → exec .ksa s' = .next t' → t.S = t'.S ∧ t.i = t'.i ∧ t.j = t'.j ∧ t.READY = t'.READY) ∧
  (∀ (key : List Byte) (m L : Nat), 1 ≤ m →
    Reference.generateKeystream (List.replicate m key).flatten L = Reference.generateKeystream key L)

/-- 41_ksa.md R127: `KSA` on a keyed block restarts the keystream: whatever `S`, `i`, `j` and `READY` were, the
responses from the `KSA` on are those of a block that has just been given the key. -/
def Obligations.KsaRestartsTheKeystream : Prop :=
  ∀ (ws : List Word) (s t : State), AtBoundary s → AtBoundary t →
    s.KEYLEN ≠ 0#9 → s.KEYLEN = t.KEYLEN →
    (∀ n : Byte, n.toNat < s.KEYLEN.toNat → readEntry s.K n = readEntry t.K n) →
    ∃ (rs : List Word) (s' t' : State),
      runWords (0x3000#16 :: ws) s = some (0x0000#16 :: rs, s') ∧
      runWords (0x3000#16 :: ws) t = some (0x0000#16 :: rs, t')

/-- 42_prga.md R149, 43_xform.md R165: after a `KSA` that responds OK, `i` is the number of `GEN` and `XOR` words
modulo 256, whichever of the two they are, however many there are. -/
def Obligations.IndexCountsTheSteps : Prop :=
  ∀ (cmds : List Instr) (s : State), AtBoundary s → s.KEYLEN ≠ 0#9 →
    (∀ c ∈ cmds, c = .gen ∨ ∃ d, c = .xor d) →
    ∃ (rs : List Word) (t : State), runWords (0x3000#16 :: cmds.map encode) s = some (rs, t) ∧
      t.i = BitVec.ofNat 8 cmds.length ∧ t.READY = true

/-! ### Keys and sessions -/

/-- 40_key.md R104: after `KCLR`, the bytes pushed stand in `K` in push order, `K[0]` first. -/
def Obligations.KeyBytesArriveInOrder : Prop :=
  ∀ (key : List Byte) (s : State), AtBoundary s → key.length ≤ 256 →
    ∃ t : State, runWords (expandWords (.key key)) s = some (List.replicate (key.length + 1) 0x0000#16, t) ∧
      t.KEYLEN.toNat = key.length ∧ t.READY = false ∧
      (∀ n : Nat, n < key.length → readEntry t.K (BitVec.ofNat 8 n) = key.getD n 0#8) ∧
      t.S = s.S ∧ t.i = s.i ∧ t.j = s.j

/-- 40_key.md R103: of a key of more than 256 bytes, pushed whole, the block holds what it holds of the first 256,
and the algorithm over the whole key gives the keystream of the first 256. -/
def Obligations.LongKeysAreTruncatedExactly : Prop :=
  ∀ (key : List Byte), 256 < key.length →
    (∀ n : Nat, n < 256 → Reference.keyByte key n = key.getD n 0#8 ∧
      Reference.keyByte (key.take 256) n = key.getD n 0#8) ∧
    (∀ L : Nat, Reference.generateKeystream key L = Reference.generateKeystream (key.take 256) L) ∧
    (∀ s : State, AtBoundary s → ∃ t : State,
      runWords (expandWords (.key key)) s = some (List.replicate (key.length + 1) 0x0000#16, t) ∧
      runWords (expandWords (.key (key.take 256))) s = some (List.replicate 257 0x0000#16, t))

/-- 42_prga.md R148: for a key of any length from 1 byte up and any L, from any command boundary, `RC4GEN key, L`
responds OK throughout, and its last L responses carry exactly `generate_keystream(key, L)`. For the empty key, `KSA`
responds `E_INVALID_KEY`, each `GEN` responds `E_NOT_KEYED` with 0x00, and the call answers `InvalidKey`. -/
def Obligations.BlockGeneratesTheKeystream : Prop :=
  ∀ (key : List Byte) (L : Nat) (s : State), AtBoundary s →
    (key ≠ [] → ∃ (ks : List Byte) (t : State), Reference.generateKeystream key L = some ks ∧ ks.length = L ∧
      runWords (expandWords (.rc4gen key L)) s =
        some (List.replicate (key.length + 2) 0x0000#16 ++ ks.map (fun b => b.setWidth 16), t)) ∧
    (Reference.generateKeystream [] L = none ∧ ∃ t : State, runWords (expandWords (.rc4gen [] L)) s =
      some (0x0000#16 :: 0x2000#16 :: List.replicate L 0x3000#16, t))

/-- 43_xform.md R162, R163: the same for `RC4XFORM key, data` and `transform(data, key)`; the output has the length of
the data. For the empty key no data byte is returned. -/
def Obligations.BlockTransformsData : Prop :=
  ∀ (key data : List Byte) (s : State), AtBoundary s →
    (key ≠ [] → ∃ (out : List Byte) (t : State), Reference.transform data key = some out ∧
      out.length = data.length ∧
      runWords (expandWords (.rc4xform key data)) s =
        some (List.replicate (key.length + 2) 0x0000#16 ++ out.map (fun b => b.setWidth 16), t)) ∧
    (Reference.transform data [] = none ∧ ∃ t : State, runWords (expandWords (.rc4xform [] data)) s =
      some (0x0000#16 :: 0x2000#16 :: List.replicate data.length 0x3000#16, t))

/-- 43_xform.md R165, 42_prga.md R147: in a session, `GEN` and `XOR` in any mixture use the bytes of one keystream,
byte m for the m-th of them, and the responses are a function of the key, the position and the operand alone. -/
def Obligations.GenAndXorShareOneKeystream : Prop :=
  ∀ (key : List Byte) (cmds : List (Option Byte)) (s : State), AtBoundary s → key ≠ [] →
    ∃ (ks : List Byte) (t : State), Reference.generateKeystream key cmds.length = some ks ∧
      ks.length = cmds.length ∧
      runWords (expandWords (.key key) ++ 0x3000#16 :: cmds.map keystreamWord) s =
        some (List.replicate (key.length + 2) 0x0000#16 ++ List.zipWith keystreamResponse cmds ks, t)

/-- 43_xform.md R161: what `RC4XFORM key, D` returns is D combined with the keystream, byte by byte; given to
`RC4XFORM key` again, in any state at a command boundary, it returns D. -/
def Obligations.TransformTwiceIsTheData : Prop :=
  ∀ (key data : List Byte) (s u : State), AtBoundary s → AtBoundary u → key ≠ [] →
    ∃ (ks out : List Byte) (t v : State), Reference.generateKeystream key data.length = some ks ∧
      out = List.zipWith (fun d k => d ^^^ k) data ks ∧
      runWords (expandWords (.rc4xform key data)) s =
        some (List.replicate (key.length + 2) 0x0000#16 ++ out.map (fun b => b.setWidth 16), t) ∧
      runWords (expandWords (.rc4xform key out)) u =
        some (List.replicate (key.length + 2) 0x0000#16 ++ data.map (fun b => b.setWidth 16), v)

/-! ### The signal level -/

/-- 00_scope.md R10, 30_encoding.md R72 to R75, 20_memory.md R55, R56: a word accepted from an idle block is in
`EXEC`, with `cmd_ready` and `rsp_valid` 0, for exactly its latency, whatever the other inputs do, and then the block
is in the state the transaction gives: for every timing and every schedule of the KSA loop. That a latency counts the
cycles in `EXEC`, that an ILLEGAL word takes `LAT_CTRL` and a failing command the latency of its operation code is the
model's choice (log entry 8), and so is the schedule of the loop (log entry 9). -/
def Obligations.ClockRunIsTheTransaction : Prop :=
  ∀ (T : Timing) (x : PortsIn) (xs : List PortsIn) (s : State), T.Legal →
    s.PHASE = .idle → x.rst = false → x.cmdValid = true → cmdReady T false s = true →
    xs.length = latencyOf T x.cmdWord → (∀ y ∈ xs, y.rst = false) →
    (∃ u : State, runWord x.cmdWord s = .next u ∧
      edges T (x :: xs) s = .next { u with
        sinceReset := s.sinceReset + (xs.length + 1), draws := s.draws + (xs.length + 1) }) ∧
    (∀ ys : List PortsIn, ys <+: xs → ys ≠ xs → ∃ v : State, edges T (x :: ys) s = .next v ∧
      cmdReady T false v = false ∧ rspValid v = false)

/-- 30_encoding.md R74, 70_reset_and_hazards.md R246: a response stands, with its word constant and no command
accepted, for as long as the host does not take it; the edge at which it does leaves the block idle. Nothing else
changes. -/
def Obligations.ResponseIsHeldUntilTaken : Prop :=
  ∀ (T : Timing) (xs : List PortsIn) (x : PortsIn) (s : State), s.PHASE = .resp →
    (∀ y ∈ xs, y.rst = false ∧ y.rspReady = false) → x.rst = false → x.rspReady = true →
    ∃ t : State, edges T xs s = .next t ∧
      t = { s with sinceReset := s.sinceReset + xs.length, draws := s.draws + xs.length } ∧
      rspValid t = true ∧ rspWord t = s.RSP ∧ cmdReady T false t = false ∧
      ∃ u : State, edge T x t = .next u ∧ rspValid u = false ∧
        u = { t with PHASE := .idle, sinceReset := t.sinceReset + 1, draws := t.draws + 1 }

/-- 30_encoding.md R73, 70_reset_and_hazards.md R240, R242, R245: `cmd_ready` is 1 exactly in `IDLE`, with `rst` = 0,
after `LAT_RESET`; at an edge where it is 0, the command inputs have no effect: nothing is latched. That R73's
count of `LAT_RESET` and R242's are both left open is the model's choice (log entry 7). -/
def Obligations.NothingIsAcceptedUnlessReady : Prop :=
  ∀ (T : Timing) (s : State) (x : PortsIn),
    (cmdReady T x.rst s = true ↔ s.PHASE = .idle ∧ x.rst = false ∧ (match T.resetCount with
        | .sinceRstWasLast1 => T.latReset ≤ s.sinceReset
        | .afterFirstEdge => T.latReset + 1 ≤ s.sinceReset)) ∧
    (cmdReady T x.rst s = false → ∀ (valid : Bool) (w : Word),
      edge T { x with cmdValid := valid, cmdWord := w } s = edge T x s)

/-- 30_encoding.md R73, 70_reset_and_hazards.md R242: after an edge with `rst` = 1, and whatever the command inputs, the
block waits in `IDLE`, not keyed and with an empty key; `cmd_ready` is 0 until `LAT_RESET` edges with `rst` = 0 have
passed, as R73 counts, or one more, as R242 counts, and then 1. That both are left open is the model's choice (log
entry 7). -/
def Obligations.CmdReadyRisesAfterTheWait : Prop :=
  ∀ (T : Timing) (x : PortsIn) (xs : List PortsIn) (s : State),
    x.rst = true → (∀ y ∈ xs, y.rst = false) → xs.length ≤ T.resetWait →
    ∃ t : State, edges T (x :: xs) s = .next t ∧
      t.PHASE = .idle ∧ t.READY = false ∧ t.KEYLEN = 0#9 ∧ rspValid t = false ∧
      cmdReady T false t = decide (xs.length = T.resetWait) ∧
      (T.resetCount = .sinceRstWasLast1 → T.resetWait = T.latReset) ∧
      (T.resetCount = .afterFirstEdge → T.resetWait = T.latReset + 1)

/-- 70_reset_and_hazards.md R242, R245 (the counting of `LAT_RESET` is the model's choice, log entry 7): an offer made during the wait
after reset and held as the host must is the word accepted, at the first edge at which the wait is over. -/
def Obligations.OfferHeldAfterResetIsAccepted : Prop :=
  ∀ (T : Timing) (x : PortsIn) (xs : List PortsIn) (s : State),
    s.PHASE = .idle → s.sinceReset + xs.length = T.resetWait → x.rst = false → (∀ y ∈ xs, y.rst = false) →
    x.cmdValid = true → offersHeld T (x :: xs) s = true →
    ∃ t : State, edges T (x :: xs) s = .next t ∧
      t.PHASE = .exec { cmd := x.cmdWord, cycles := 0, ksaCount := 0 }

/-! ### Several instances, and the assembler -/

/-- 20_memory.md R62: a step of one instance leaves every other as it was, and the order of steps of two instances
cannot be told. That a system is a list of states, stepped one at a time, is the model's choice (log entry 15). -/
def Obligations.InstancesShareNothing : Prop :=
  ∀ (sys a b : Instances) (m n : Nat), m ≠ n → stepInstance m sys = some a → stepInstance n sys = some b →
    a[n]? = sys[n]? ∧ ∃ c : Instances, stepInstance n a = some c ∧ stepInstance m b = some c

/-- 30_encoding.md R85: the example lines of the rule. -/
def Obligations.AssemblerReadsTheExamples : Prop :=
  assembleLine ['K', 'P', 'U', 'S', 'H', ' ', '0', 'x', '4', 'B'] = some [.kpush 0x4B#8] ∧
  assembleLine ['X', 'O', 'R', ' ', quote, 'P', quote] = some [.xor 0x50#8] ∧
  assembleLine ['G', 'E', 'N'] = some [.gen] ∧
  assembleLine ['K', 'S', 'A'] = some [.ksa]
end

