-- ==== Sys2Proof/Laws/State.lean ====
section
/-! SUPPORT. One lemma per field per update of the state, each true by unfolding once, so that no proof unfolds a
record update. -/

namespace Sys2Proof.Laws

open Sys2Proof.Machine

/-! ### respond -/

@[simp] theorem respond_S (st : Status) (d : Byte) (s : State) : (respond st d s).S = s.S := rfl
@[simp] theorem respond_i (st : Status) (d : Byte) (s : State) : (respond st d s).i = s.i := rfl
@[simp] theorem respond_j (st : Status) (d : Byte) (s : State) : (respond st d s).j = s.j := rfl
@[simp] theorem respond_K (st : Status) (d : Byte) (s : State) : (respond st d s).K = s.K := rfl
@[simp] theorem respond_KEYLEN (st : Status) (d : Byte) (s : State) : (respond st d s).KEYLEN = s.KEYLEN := rfl
@[simp] theorem respond_READY (st : Status) (d : Byte) (s : State) : (respond st d s).READY = s.READY := rfl
@[simp] theorem respond_PHASE (st : Status) (d : Byte) (s : State) : (respond st d s).PHASE = .resp := rfl
@[simp] theorem respond_RSP (st : Status) (d : Byte) (s : State) : (respond st d s).RSP = responseWord st d := rfl
@[simp] theorem respond_sinceReset (st : Status) (d : Byte) (s : State) : (respond st d s).sinceReset = s.sinceReset := rfl
@[simp] theorem respond_host (st : Status) (d : Byte) (s : State) : (respond st d s).host = s.host := rfl
@[simp] theorem respond_draws (st : Status) (d : Byte) (s : State) : (respond st d s).draws = s.draws := rfl

/-! ### raiseError -/

@[simp] theorem raiseError_S (e : Status) (s : State) : (raiseError e s).S = s.S := rfl
@[simp] theorem raiseError_i (e : Status) (s : State) : (raiseError e s).i = s.i := rfl
@[simp] theorem raiseError_j (e : Status) (s : State) : (raiseError e s).j = s.j := rfl
@[simp] theorem raiseError_K (e : Status) (s : State) : (raiseError e s).K = s.K := rfl
@[simp] theorem raiseError_KEYLEN (e : Status) (s : State) : (raiseError e s).KEYLEN = s.KEYLEN := rfl
@[simp] theorem raiseError_READY (e : Status) (s : State) : (raiseError e s).READY = s.READY := rfl
@[simp] theorem raiseError_PHASE (e : Status) (s : State) : (raiseError e s).PHASE = .resp := rfl
@[simp] theorem raiseError_RSP (e : Status) (s : State) : (raiseError e s).RSP = responseWord e 0#8 := rfl
@[simp] theorem raiseError_sinceReset (e : Status) (s : State) : (raiseError e s).sinceReset = s.sinceReset := rfl
@[simp] theorem raiseError_host (e : Status) (s : State) : (raiseError e s).host = s.host := rfl
@[simp] theorem raiseError_draws (e : Status) (s : State) : (raiseError e s).draws = s.draws := rfl

/-! ### takeResponse -/

@[simp] theorem takeResponse_S (s : State) : (takeResponse s).S = s.S := rfl
@[simp] theorem takeResponse_i (s : State) : (takeResponse s).i = s.i := rfl
@[simp] theorem takeResponse_j (s : State) : (takeResponse s).j = s.j := rfl
@[simp] theorem takeResponse_K (s : State) : (takeResponse s).K = s.K := rfl
@[simp] theorem takeResponse_KEYLEN (s : State) : (takeResponse s).KEYLEN = s.KEYLEN := rfl
@[simp] theorem takeResponse_READY (s : State) : (takeResponse s).READY = s.READY := rfl
@[simp] theorem takeResponse_PHASE (s : State) : (takeResponse s).PHASE = .idle := rfl
@[simp] theorem takeResponse_RSP (s : State) : (takeResponse s).RSP = s.RSP := rfl
@[simp] theorem takeResponse_sinceReset (s : State) : (takeResponse s).sinceReset = s.sinceReset := rfl
@[simp] theorem takeResponse_host (s : State) : (takeResponse s).host = s.host := rfl
@[simp] theorem takeResponse_draws (s : State) : (takeResponse s).draws = s.draws := rfl

/-! ### enterPhase -/

@[simp] theorem enterPhase_S (p : Phase) (s : State) : (enterPhase p s).S = s.S := rfl
@[simp] theorem enterPhase_i (p : Phase) (s : State) : (enterPhase p s).i = s.i := rfl
@[simp] theorem enterPhase_j (p : Phase) (s : State) : (enterPhase p s).j = s.j := rfl
@[simp] theorem enterPhase_K (p : Phase) (s : State) : (enterPhase p s).K = s.K := rfl
@[simp] theorem enterPhase_KEYLEN (p : Phase) (s : State) : (enterPhase p s).KEYLEN = s.KEYLEN := rfl
@[simp] theorem enterPhase_READY (p : Phase) (s : State) : (enterPhase p s).READY = s.READY := rfl
@[simp] theorem enterPhase_PHASE (p : Phase) (s : State) : (enterPhase p s).PHASE = p := rfl
@[simp] theorem enterPhase_RSP (p : Phase) (s : State) : (enterPhase p s).RSP = s.RSP := rfl
@[simp] theorem enterPhase_sinceReset (p : Phase) (s : State) : (enterPhase p s).sinceReset = s.sinceReset := rfl
@[simp] theorem enterPhase_host (p : Phase) (s : State) : (enterPhase p s).host = s.host := rfl
@[simp] theorem enterPhase_draws (p : Phase) (s : State) : (enterPhase p s).draws = s.draws := rfl

/-! ### presentWord -/

@[simp] theorem presentWord_S (w : Word) (s : State) : (presentWord w s).S = s.S := rfl
@[simp] theorem presentWord_i (w : Word) (s : State) : (presentWord w s).i = s.i := rfl
@[simp] theorem presentWord_j (w : Word) (s : State) : (presentWord w s).j = s.j := rfl
@[simp] theorem presentWord_K (w : Word) (s : State) : (presentWord w s).K = s.K := rfl
@[simp] theorem presentWord_KEYLEN (w : Word) (s : State) : (presentWord w s).KEYLEN = s.KEYLEN := rfl
@[simp] theorem presentWord_READY (w : Word) (s : State) : (presentWord w s).READY = s.READY := rfl
@[simp] theorem presentWord_PHASE (w : Word) (s : State) : (presentWord w s).PHASE = s.PHASE := rfl
@[simp] theorem presentWord_RSP (w : Word) (s : State) : (presentWord w s).RSP = s.RSP := rfl
@[simp] theorem presentWord_sinceReset (w : Word) (s : State) : (presentWord w s).sinceReset = s.sinceReset := rfl
@[simp] theorem presentWord_host (w : Word) (s : State) : (presentWord w s).host = .command w :: s.host := rfl
@[simp] theorem presentWord_draws (w : Word) (s : State) : (presentWord w s).draws = s.draws := rfl

/-! ### applyReset -/

@[simp] theorem applyReset_S (s : State) : (applyReset s).S = tabulate (Config.entryOfSAfterReset s.draws) := rfl
@[simp] theorem applyReset_i (s : State) : (applyReset s).i = 0#8 := rfl
@[simp] theorem applyReset_j (s : State) : (applyReset s).j = 0#8 := rfl
@[simp] theorem applyReset_K (s : State) : (applyReset s).K = tabulate (Config.entryOfKAfterReset s.draws) := rfl
@[simp] theorem applyReset_KEYLEN (s : State) : (applyReset s).KEYLEN = 0#9 := rfl
@[simp] theorem applyReset_READY (s : State) : (applyReset s).READY = false := rfl
@[simp] theorem applyReset_PHASE (s : State) : (applyReset s).PHASE = .idle := rfl
@[simp] theorem applyReset_RSP (s : State) : (applyReset s).RSP = Config.rspAfterReset s.draws := rfl
@[simp] theorem applyReset_sinceReset (s : State) : (applyReset s).sinceReset = 0 := rfl
@[simp] theorem applyReset_host (s : State) : (applyReset s).host = s.host := rfl
@[simp] theorem applyReset_draws (s : State) : (applyReset s).draws = s.draws + 1 := rfl

/-! ### scheduleKey -/

@[simp] theorem scheduleKey_S (s : State) : (scheduleKey s).S = scheduledArray (cyclicKey s) := rfl
@[simp] theorem scheduleKey_i (s : State) : (scheduleKey s).i = 0#8 := rfl
@[simp] theorem scheduleKey_j (s : State) : (scheduleKey s).j = 0#8 := rfl
@[simp] theorem scheduleKey_K (s : State) : (scheduleKey s).K = s.K := rfl
@[simp] theorem scheduleKey_KEYLEN (s : State) : (scheduleKey s).KEYLEN = s.KEYLEN := rfl
@[simp] theorem scheduleKey_READY (s : State) : (scheduleKey s).READY = true := rfl
@[simp] theorem scheduleKey_PHASE (s : State) : (scheduleKey s).PHASE = s.PHASE := rfl
@[simp] theorem scheduleKey_RSP (s : State) : (scheduleKey s).RSP = s.RSP := rfl
@[simp] theorem scheduleKey_sinceReset (s : State) : (scheduleKey s).sinceReset = s.sinceReset := rfl
@[simp] theorem scheduleKey_host (s : State) : (scheduleKey s).host = s.host := rfl
@[simp] theorem scheduleKey_draws (s : State) : (scheduleKey s).draws = s.draws := rfl

/-! ### advanceKeystream -/

@[simp] theorem advanceKeystream_S (s : State) : (advanceKeystream s).S = (prgaOf s).S := rfl
@[simp] theorem advanceKeystream_i (s : State) : (advanceKeystream s).i = (prgaOf s).i := rfl
@[simp] theorem advanceKeystream_j (s : State) : (advanceKeystream s).j = (prgaOf s).j := rfl
@[simp] theorem advanceKeystream_K (s : State) : (advanceKeystream s).K = s.K := rfl
@[simp] theorem advanceKeystream_KEYLEN (s : State) : (advanceKeystream s).KEYLEN = s.KEYLEN := rfl
@[simp] theorem advanceKeystream_READY (s : State) : (advanceKeystream s).READY = s.READY := rfl
@[simp] theorem advanceKeystream_PHASE (s : State) : (advanceKeystream s).PHASE = s.PHASE := rfl
@[simp] theorem advanceKeystream_RSP (s : State) : (advanceKeystream s).RSP = s.RSP := rfl
@[simp] theorem advanceKeystream_sinceReset (s : State) : (advanceKeystream s).sinceReset = s.sinceReset := rfl
@[simp] theorem advanceKeystream_host (s : State) : (advanceKeystream s).host = s.host := rfl
@[simp] theorem advanceKeystream_draws (s : State) : (advanceKeystream s).draws = s.draws := rfl

/-! ### ksaBegin -/

@[simp] theorem ksaBegin_S (s : State) : (ksaBegin s).S = identityTable := rfl
@[simp] theorem ksaBegin_i (s : State) : (ksaBegin s).i = 0#8 := rfl
@[simp] theorem ksaBegin_j (s : State) : (ksaBegin s).j = 0#8 := rfl
@[simp] theorem ksaBegin_K (s : State) : (ksaBegin s).K = s.K := rfl
@[simp] theorem ksaBegin_KEYLEN (s : State) : (ksaBegin s).KEYLEN = s.KEYLEN := rfl
@[simp] theorem ksaBegin_READY (s : State) : (ksaBegin s).READY = s.READY := rfl
@[simp] theorem ksaBegin_PHASE (s : State) : (ksaBegin s).PHASE = s.PHASE := rfl
@[simp] theorem ksaBegin_RSP (s : State) : (ksaBegin s).RSP = s.RSP := rfl
@[simp] theorem ksaBegin_sinceReset (s : State) : (ksaBegin s).sinceReset = s.sinceReset := rfl
@[simp] theorem ksaBegin_host (s : State) : (ksaBegin s).host = s.host := rfl
@[simp] theorem ksaBegin_draws (s : State) : (ksaBegin s).draws = s.draws := rfl

/-! ### ksaMicroStep -/

@[simp] theorem ksaMicroStep_S (n : Nat) (s : State) : (ksaMicroStep n s).S = (ksaIter s.S s.j (BitVec.ofNat 8 n) (cyclicKey s n)).1 := rfl
@[simp] theorem ksaMicroStep_i (n : Nat) (s : State) : (ksaMicroStep n s).i = BitVec.ofNat 8 n := rfl
@[simp] theorem ksaMicroStep_j (n : Nat) (s : State) : (ksaMicroStep n s).j = (ksaIter s.S s.j (BitVec.ofNat 8 n) (cyclicKey s n)).2 := rfl
@[simp] theorem ksaMicroStep_K (n : Nat) (s : State) : (ksaMicroStep n s).K = s.K := rfl
@[simp] theorem ksaMicroStep_KEYLEN (n : Nat) (s : State) : (ksaMicroStep n s).KEYLEN = s.KEYLEN := rfl
@[simp] theorem ksaMicroStep_READY (n : Nat) (s : State) : (ksaMicroStep n s).READY = s.READY := rfl
@[simp] theorem ksaMicroStep_PHASE (n : Nat) (s : State) : (ksaMicroStep n s).PHASE = s.PHASE := rfl
@[simp] theorem ksaMicroStep_RSP (n : Nat) (s : State) : (ksaMicroStep n s).RSP = s.RSP := rfl
@[simp] theorem ksaMicroStep_sinceReset (n : Nat) (s : State) : (ksaMicroStep n s).sinceReset = s.sinceReset := rfl
@[simp] theorem ksaMicroStep_host (n : Nat) (s : State) : (ksaMicroStep n s).host = s.host := rfl
@[simp] theorem ksaMicroStep_draws (n : Nat) (s : State) : (ksaMicroStep n s).draws = s.draws := rfl

/-! ### ksaEnd -/

@[simp] theorem ksaEnd_S (s : State) : (ksaEnd s).S = s.S := rfl
@[simp] theorem ksaEnd_i (s : State) : (ksaEnd s).i = 0#8 := rfl
@[simp] theorem ksaEnd_j (s : State) : (ksaEnd s).j = 0#8 := rfl
@[simp] theorem ksaEnd_K (s : State) : (ksaEnd s).K = s.K := rfl
@[simp] theorem ksaEnd_KEYLEN (s : State) : (ksaEnd s).KEYLEN = s.KEYLEN := rfl
@[simp] theorem ksaEnd_READY (s : State) : (ksaEnd s).READY = true := rfl
@[simp] theorem ksaEnd_PHASE (s : State) : (ksaEnd s).PHASE = .resp := rfl
@[simp] theorem ksaEnd_RSP (s : State) : (ksaEnd s).RSP = responseWord .ok 0#8 := rfl
@[simp] theorem ksaEnd_sinceReset (s : State) : (ksaEnd s).sinceReset = s.sinceReset := rfl
@[simp] theorem ksaEnd_host (s : State) : (ksaEnd s).host = s.host := rfl
@[simp] theorem ksaEnd_draws (s : State) : (ksaEnd s).draws = s.draws := rfl

/-! ### tick -/

@[simp] theorem tick_S (s : State) : (tick s).S = s.S := rfl
@[simp] theorem tick_i (s : State) : (tick s).i = s.i := rfl
@[simp] theorem tick_j (s : State) : (tick s).j = s.j := rfl
@[simp] theorem tick_K (s : State) : (tick s).K = s.K := rfl
@[simp] theorem tick_KEYLEN (s : State) : (tick s).KEYLEN = s.KEYLEN := rfl
@[simp] theorem tick_READY (s : State) : (tick s).READY = s.READY := rfl
@[simp] theorem tick_PHASE (s : State) : (tick s).PHASE = s.PHASE := rfl
@[simp] theorem tick_RSP (s : State) : (tick s).RSP = s.RSP := rfl
@[simp] theorem tick_sinceReset (s : State) : (tick s).sinceReset = s.sinceReset + 1 := rfl
@[simp] theorem tick_host (s : State) : (tick s).host = s.host := rfl
@[simp] theorem tick_draws (s : State) : (tick s).draws = s.draws + 1 := rfl

/-! ### appendKeyByte: it writes `K` and `KEYLEN` only -/

@[simp] theorem appendKeyByte_S (b : Byte) (s : State) : (appendKeyByte b s).S = s.S := by
  unfold appendKeyByte; split <;> rfl
@[simp] theorem appendKeyByte_i (b : Byte) (s : State) : (appendKeyByte b s).i = s.i := by
  unfold appendKeyByte; split <;> rfl
@[simp] theorem appendKeyByte_j (b : Byte) (s : State) : (appendKeyByte b s).j = s.j := by
  unfold appendKeyByte; split <;> rfl
@[simp] theorem appendKeyByte_READY (b : Byte) (s : State) : (appendKeyByte b s).READY = s.READY := by
  unfold appendKeyByte; split <;> rfl
@[simp] theorem appendKeyByte_PHASE (b : Byte) (s : State) : (appendKeyByte b s).PHASE = s.PHASE := by
  unfold appendKeyByte; split <;> rfl
@[simp] theorem appendKeyByte_RSP (b : Byte) (s : State) : (appendKeyByte b s).RSP = s.RSP := by
  unfold appendKeyByte; split <;> rfl
@[simp] theorem appendKeyByte_sinceReset (b : Byte) (s : State) : (appendKeyByte b s).sinceReset = s.sinceReset := by
  unfold appendKeyByte; split <;> rfl
@[simp] theorem appendKeyByte_host (b : Byte) (s : State) : (appendKeyByte b s).host = s.host := by
  unfold appendKeyByte; split <;> rfl
@[simp] theorem appendKeyByte_draws (b : Byte) (s : State) : (appendKeyByte b s).draws = s.draws := by
  unfold appendKeyByte; split <;> rfl

/-! ### acceptWord: it writes the phase, and the registers of a loop that runs -/

@[simp] theorem acceptWord_K (w : Word) (s : State) : (acceptWord w s).K = s.K := by
  unfold acceptWord; rw [enterPhase_K]; split <;> rfl
@[simp] theorem acceptWord_KEYLEN (w : Word) (s : State) : (acceptWord w s).KEYLEN = s.KEYLEN := by
  unfold acceptWord; rw [enterPhase_KEYLEN]; split <;> rfl
@[simp] theorem acceptWord_READY (w : Word) (s : State) : (acceptWord w s).READY = s.READY := by
  unfold acceptWord; rw [enterPhase_READY]; split <;> rfl
@[simp] theorem acceptWord_PHASE (w : Word) (s : State) :
    (acceptWord w s).PHASE = .exec { cmd := w, cycles := 0, ksaCount := 0 } := rfl
@[simp] theorem acceptWord_RSP (w : Word) (s : State) : (acceptWord w s).RSP = s.RSP := by
  unfold acceptWord; rw [enterPhase_RSP]; split <;> rfl
@[simp] theorem acceptWord_sinceReset (w : Word) (s : State) : (acceptWord w s).sinceReset = s.sinceReset := by
  unfold acceptWord; rw [enterPhase_sinceReset]; split <;> rfl
@[simp] theorem acceptWord_host (w : Word) (s : State) : (acceptWord w s).host = s.host := by
  unfold acceptWord; rw [enterPhase_host]; split <;> rfl
@[simp] theorem acceptWord_draws (w : Word) (s : State) : (acceptWord w s).draws = s.draws := by
  unfold acceptWord; rw [enterPhase_draws]; split <;> rfl

/-! ### ksaMicroSteps: it writes `S`, `i` and `j` only -/

@[simp] theorem ksaMicroSteps_K (c n : Nat) (s : State) : (ksaMicroSteps c n s).K = s.K := by
  induction c generalizing n s with
  | zero => rfl
  | succ c ih => simp [ksaMicroSteps, ih]
@[simp] theorem ksaMicroSteps_KEYLEN (c n : Nat) (s : State) : (ksaMicroSteps c n s).KEYLEN = s.KEYLEN := by
  induction c generalizing n s with
  | zero => rfl
  | succ c ih => simp [ksaMicroSteps, ih]
@[simp] theorem ksaMicroSteps_READY (c n : Nat) (s : State) : (ksaMicroSteps c n s).READY = s.READY := by
  induction c generalizing n s with
  | zero => rfl
  | succ c ih => simp [ksaMicroSteps, ih]
@[simp] theorem ksaMicroSteps_PHASE (c n : Nat) (s : State) : (ksaMicroSteps c n s).PHASE = s.PHASE := by
  induction c generalizing n s with
  | zero => rfl
  | succ c ih => simp [ksaMicroSteps, ih]
@[simp] theorem ksaMicroSteps_RSP (c n : Nat) (s : State) : (ksaMicroSteps c n s).RSP = s.RSP := by
  induction c generalizing n s with
  | zero => rfl
  | succ c ih => simp [ksaMicroSteps, ih]
@[simp] theorem ksaMicroSteps_sinceReset (c n : Nat) (s : State) : (ksaMicroSteps c n s).sinceReset = s.sinceReset := by
  induction c generalizing n s with
  | zero => rfl
  | succ c ih => simp [ksaMicroSteps, ih]
@[simp] theorem ksaMicroSteps_host (c n : Nat) (s : State) : (ksaMicroSteps c n s).host = s.host := by
  induction c generalizing n s with
  | zero => rfl
  | succ c ih => simp [ksaMicroSteps, ih]
@[simp] theorem ksaMicroSteps_draws (c n : Nat) (s : State) : (ksaMicroSteps c n s).draws = s.draws := by
  induction c generalizing n s with
  | zero => rfl
  | succ c ih => simp [ksaMicroSteps, ih]

end Sys2Proof.Laws
end

