-- ==== Sys2Proof/Laws/Ops.lean ====
section
/-! SUPPORT. What the shared operations on arrays and response words do, said once. -/

namespace Sys2Proof.Laws

open Sys2Proof.Machine Sys2Proof.Safety

/-! ### Arrays -/

/-- A read after a write: the written entry gives the value written, every other entry what it gave before. -/
theorem readEntry_writeEntry (a : Table) (n v m : Byte) :
    readEntry (writeEntry a n v) m = if m = n then v else readEntry a m := by
  unfold readEntry writeEntry
  rw [Vector.getElem_set]
  by_cases h : m = n
  · subst h; simp
  · have hne : ¬ n.toNat = m.toNat := fun e => h (BitVec.eq_of_toNat_eq e.symm)
    simp [h, hne]

/-- Two arrays with the same entries are the same array. -/
theorem table_ext {a b : Table} (h : ∀ n : Byte, readEntry a n = readEntry b n) : a = b := by
  apply Vector.ext
  intro k hk
  have e := h (BitVec.ofNat 8 k)
  simp only [readEntry, BitVec.toNat_ofNat] at e
  simpa [Nat.mod_eq_of_lt hk] using e

/-- Entry n of `tabulate f` is `f n`. -/
@[simp] theorem readEntry_tabulate (f : Byte → Byte) (n : Byte) : readEntry (tabulate f) n = f n := by
  simp [readEntry, tabulate]

/-- Entry n of the identity permutation is n (41_ksa.md R120). -/
@[simp] theorem readEntry_identityTable (n : Byte) : readEntry identityTable n = n := by
  simp [identityTable]

/-- The identity is a permutation. -/
theorem isPermutation_identityTable : IsPermutation identityTable := fun v => ⟨v, by simp, by simp⟩

/-- A read after a swap (00_scope.md R14): the two entries have changed places, every other stands. -/
theorem readEntry_swapEntries (a : Table) (p q n : Byte) :
    readEntry (swapEntries a p q) n =
      if n = p then readEntry a q else if n = q then readEntry a p else readEntry a n := by
  simp only [swapEntries, readEntry_writeEntry]
  grind

/-- A swap of a permutation is a permutation. -/
theorem isPermutation_swapEntries {a : Table} (p q : Byte) (h : IsPermutation a) :
    IsPermutation (swapEntries a p q) := by
  intro v
  obtain ⟨n, hn, hu⟩ := h v
  refine ⟨if n = p then q else if n = q then p else n, ?_, ?_⟩
  · rw [readEntry_swapEntries]; grind
  · intro m; rw [readEntry_swapEntries]; grind

/-! ### The key schedule -/

/-- Iterations in two portions are iterations in one (41_ksa.md R129). -/
theorem ksaMicroSteps_add (a b n : Nat) (s : State) :
    ksaMicroSteps (a + b) n s = ksaMicroSteps b (n + a) (ksaMicroSteps a n s) := by
  induction a generalizing n s with
  | zero => simp [ksaMicroSteps]
  | succ a ih =>
    rw [Nat.succ_add, ksaMicroSteps, ih]
    simp [ksaMicroSteps, Nat.add_assoc, Nat.add_comm 1 a]

/-- The cyclic key reads nothing of the state but `K` and `KEYLEN`. -/
theorem cyclicKey_congr {s t : State} (hK : s.K = t.K) (hL : s.KEYLEN = t.KEYLEN) : cyclicKey s = cyclicKey t := by
  funext n; simp [cyclicKey, hK, hL]

/-- The registers after c more iterations, if before them they are what n iterations give (41_ksa.md R129). -/
theorem ksaMicroSteps_loop (c n : Nat) (s : State) (h : (s.S, s.j) = ksaLoop (cyclicKey s) n) :
    ((ksaMicroSteps c n s).S, (ksaMicroSteps c n s).j) = ksaLoop (cyclicKey s) (n + c) := by
  induction c generalizing n s with
  | zero => simpa [ksaMicroSteps] using h
  | succ c ih =>
    have e : cyclicKey (ksaMicroStep n s) = cyclicKey s := cyclicKey_congr (by simp) (by simp)
    have step := ih (n + 1) (ksaMicroStep n s) (by rw [e, ksaLoop, ← h]; rfl)
    rw [e] at step
    rw [ksaMicroSteps, step]
    congr 1
    omega

/-! ### Response words -/

/-- An OK response is its data byte, zero-extended. -/
theorem responseWord_ok (d : Byte) : responseWord .ok d = d.setWidth 16 := by
  revert d; decide +kernel

/-- The response of an error carries its code in the top bits and nothing else. -/
theorem responseWord_error (e : Status) : responseWord e 0#8 = e.code.setWidth 16 <<< 12 := by
  cases e <;> decide

end Sys2Proof.Laws
end

