-- ==== Sys2Proof/Laws/Exec.lean ====
section
/-! SUPPORT. What a command, a word, a transaction and a clock edge can do, said once: proofs cite these instead of
unfolding the machine. -/

namespace Sys2Proof.Laws

open Sys2Proof.Machine Sys2Proof.Safety

/-- Every command answers a next state: a response presented on one of five states. -/
theorem exec_cases (c : Instr) (s : State) :
    ∃ (st : Status) (d : Byte) (u : State), exec c s = .next (respond st d u) ∧
      (u = s ∨
        (c = .kclr ∧ u = { s with KEYLEN := 0#9, READY := false }) ∨
        ((∃ b, c = .kpush b ∧ u = appendKeyByte b s) ∧ s.READY = false) ∨
        (c = .ksa ∧ s.KEYLEN ≠ 0#9 ∧ u = scheduleKey s) ∨
        ((c = .gen ∨ ∃ x, c = .xor x) ∧ s.READY = true ∧ u = advanceKeystream s)) := by
  cases c with
  | nop => exact ⟨_, _, _, rfl, .inl rfl⟩
  | kclr => exact ⟨_, _, _, rfl, .inr (.inl ⟨rfl, rfl⟩)⟩
  | kpush b =>
    cases h : s.READY
    · exact ⟨_, _, _, by simp [exec, execKpush, h]; rfl, .inr (.inr (.inl ⟨⟨b, rfl, rfl⟩, rfl⟩))⟩
    · exact ⟨_, _, _, by simp [exec, execKpush, h]; rfl, .inl rfl⟩
  | ksa =>
    by_cases h : s.KEYLEN = 0#9
    · exact ⟨_, _, _, by simp [exec, execKsa, h]; rfl, .inl rfl⟩
    · exact ⟨_, _, _, by simp [exec, execKsa, h]; rfl, .inr (.inr (.inr (.inl ⟨rfl, h, rfl⟩)))⟩
  | gen =>
    cases h : s.READY
    · exact ⟨_, _, _, by simp [exec, execGen, h]; rfl, .inl rfl⟩
    · exact ⟨_, _, _, by simp [exec, execGen, h]; rfl, .inr (.inr (.inr (.inr ⟨.inl rfl, rfl, rfl⟩)))⟩
  | xor d =>
    cases h : s.READY
    · exact ⟨_, _, _, by simp [exec, execXor, h]; rfl, .inl rfl⟩
    · exact ⟨_, _, _, by simp [exec, execXor, h]; rfl, .inr (.inr (.inr (.inr ⟨.inr ⟨d, rfl⟩, rfl, rfl⟩)))⟩
  | rdstat => exact ⟨_, _, _, rfl, .inl rfl⟩
  | rdklen => exact ⟨_, _, _, rfl, .inl rfl⟩

/-- A word that runs is its command, or is ILLEGAL and answers `E_ILLEGAL` with nothing else changed. -/
theorem runWord_cases (w : Word) (s : State) :
    (∃ i, decode w = .command i ∧ runWord w s = exec i s) ∨
      (∃ why, decode w = .illegal why ∧ runWord w s = .next (raiseError .illegal s)) := by
  unfold runWord
  cases h : decode w with
  | command i => exact .inl ⟨i, rfl, rfl⟩
  | illegal why => exact .inr ⟨why, rfl, rfl⟩

/-- Every word answers a next state with its response presented (30_encoding.md R74). -/
theorem runWord_answers (w : Word) (s : State) : ∃ t, runWord w s = .next t ∧ t.PHASE = .resp := by
  rcases runWord_cases w s with ⟨i, _, h⟩ | ⟨_, _, h⟩
  · obtain ⟨st, d, u, hx, _⟩ := exec_cases i s
    exact ⟨_, h.trans hx, rfl⟩
  · exact ⟨_, h, rfl⟩

/-- A step is a reset, the completion of a command in progress, a word accepted and run, or idling. -/
theorem step_cases (s : State) :
    (∃ rest, s.host = .reset :: rest ∧ step s = .next (applyReset { s with host := rest })) ∨
      (∃ p, s.PHASE = .exec p ∧ step s = runWord p.cmd s) ∨
      (∃ w rest, s.host = .command w :: rest ∧ AtBoundary s ∧
        step s = runWord w (takeResponse { s with host := rest })) ∨
      (s.host = [] ∧ AtBoundary s ∧ step s = .next (takeResponse s)) := by
  rcases hh : s.host with _ | ⟨e, rest⟩
  · rcases hp : s.PHASE with _ | p | _
    · exact .inr (.inr (.inr ⟨rfl, .inl hp, by simp [step, transact, hh, hp]⟩))
    · exact .inr (.inl ⟨p, rfl, by simp [step, transact, hh, hp]⟩)
    · exact .inr (.inr (.inr ⟨rfl, .inr hp, by simp [step, transact, hh, hp]⟩))
  · rcases e with w | _
    · rcases hp : s.PHASE with _ | p | _
      · exact .inr (.inr (.inl ⟨w, rest, rfl, .inl hp, by simp [step, transact, hh, hp]⟩))
      · exact .inr (.inl ⟨p, rfl, by simp [step, transact, hh, hp]⟩)
      · exact .inr (.inr (.inl ⟨w, rest, rfl, .inr hp, by simp [step, transact, hh, hp]⟩))
    · exact .inl ⟨rest, rfl, by simp [step, transact, hh]⟩

/-- A clock edge is a reset, an acceptance, a wait, the completion or a further cycle of a command, or the
response's being taken or held. -/
theorem edge_cases (T : Timing) (x : PortsIn) (s : State) :
    (x.rst = true ∧ edge T x s = .next (applyReset s)) ∨
      (x.rst = false ∧ s.PHASE = .idle ∧ x.cmdValid = true ∧ cmdReady T x.rst s = true ∧
        edge T x s = .next (acceptWord x.cmdWord (tick s))) ∨
      (x.rst = false ∧ s.PHASE = .idle ∧ edge T x s = .next (tick s)) ∨
      (∃ p, x.rst = false ∧ s.PHASE = .exec p ∧ latencyOf T p.cmd ≤ p.cycles + 1 ∧
        edge T x s = completeWord p (tick s)) ∨
      (∃ p, x.rst = false ∧ s.PHASE = .exec p ∧ p.cycles + 1 < latencyOf T p.cmd ∧
        edge T x s = .next (progressWord T p (tick s))) ∨
      (x.rst = false ∧ s.PHASE = .resp ∧ x.rspReady = true ∧ edge T x s = .next (takeResponse (tick s))) ∨
      (x.rst = false ∧ s.PHASE = .resp ∧ x.rspReady = false ∧ edge T x s = .next (tick s)) := by
  unfold edge
  cases hr : x.rst
  · cases hp : s.PHASE with
    | idle =>
      cases hv : x.cmdValid
      · exact .inr (.inr (.inl ⟨rfl, rfl, by simp⟩))
      · cases hc : cmdReady T false s
        · exact .inr (.inr (.inl ⟨rfl, rfl, by simp⟩))
        · exact .inr (.inl ⟨rfl, rfl, rfl, rfl, by simp⟩)
    | exec p =>
      by_cases hl : latencyOf T p.cmd ≤ p.cycles + 1
      · exact .inr (.inr (.inr (.inl ⟨p, rfl, rfl, hl, by simp [hl]⟩)))
      · exact .inr (.inr (.inr (.inr (.inl ⟨p, rfl, rfl, by omega, by simp [hl]⟩))))
    | resp =>
      cases hy : x.rspReady
      · exact .inr (.inr (.inr (.inr (.inr (.inr ⟨rfl, rfl, rfl, by simp⟩)))))
      · exact .inr (.inr (.inr (.inr (.inr (.inl ⟨rfl, rfl, rfl, by simp⟩)))))
  · exact .inl ⟨rfl, by simp⟩

/-- An edge with `rst` = 0 before the wait after reset is over changes nothing but the counts, whatever is offered
(70_reset_and_hazards.md R242). -/
theorem edge_waits (T : Timing) (x : PortsIn) (s : State) (hi : s.PHASE = .idle) (hr : x.rst = false)
    (hw : s.sinceReset < T.resetWait) : edge T x s = .next (tick s) := by
  have nr : cmdReady T x.rst s = false := by simp [cmdReady, hw]
  rw [hr] at nr
  simp [edge, hr, hi, nr]

end Sys2Proof.Laws
end

