-- ==== Sys2Proof/Laws/HostRuns.lean ====
section
/-! SUPPORT. What a run of words is: its first word, its parts, its completion. -/

namespace Sys2Proof.Laws

open Sys2Proof.Machine Sys2Proof.Safety

/-- A run begins with its first word, run on the state whose response is taken. -/
theorem runWords_cons (w : Word) (ws : List Word) (s u : State) (hb : AtBoundary s)
    (h : runWord w (takeResponse s) = .next u) :
    runWords (w :: ws) s = (runWords ws u).map fun r => (u.RSP :: r.1, r.2) := by
  have first : step (presentWord w s) = .next u := by
    rw [← h]
    rcases hb with hb | hb <;> simp [step, transact, presentWord, hb, takeResponse]
  simp only [runWords, first]

/-- From a command boundary every run completes, with one response a word, at a command boundary. -/
theorem runWords_answers (ws : List Word) (s : State) (hb : AtBoundary s) :
    ∃ rs t, runWords ws s = some (rs, t) ∧ rs.length = ws.length ∧ AtBoundary t := by
  induction ws generalizing s with
  | nil => exact ⟨[], s, rfl, rfl, hb⟩
  | cons w ws ih =>
    obtain ⟨u, hu, hp⟩ := runWord_answers w (takeResponse s)
    obtain ⟨rs, t, h1, h2, h3⟩ := ih u (.inr hp)
    exact ⟨u.RSP :: rs, t, by rw [runWords_cons w ws s u hb hu, h1]; rfl, by simp [h2], h3⟩

/-- A run in two parts: the second part starts where the first ended. -/
theorem runWords_append (a b : List Word) (s t : State) (rs : List Word) (h : runWords a s = some (rs, t)) :
    runWords (a ++ b) s = (runWords b t).map fun r => (rs ++ r.1, r.2) := by
  induction a generalizing s rs with
  | nil => cases h; simp
  | cons w ws ih =>
    simp only [runWords, List.cons_append] at h ⊢
    cases hs : step (presentWord w s) with
    | next u =>
      simp only [hs] at h ⊢
      cases hr : runWords ws u with
      | none => rw [hr] at h; cases h
      | some r =>
        rw [hr] at h
        cases h
        rw [ih u r.1 hr]
        cases runWords b r.2 <;> simp
    | fault r => cases r
    | refused r => rw [hs] at h; cases h

end Sys2Proof.Laws
end

