-- ==== Sys2Proof/Laws/PerInstr.lean ====
section
/-! SUPPORT. Facts about every command as syntax, one lemma per constructor. -/

/-- The fields of a command's word pass the three checks of 30_encoding.md R84, and the command itself is well
formed. -/
def Sys2Proof.Laws.EncodedFieldsWellFormed.Statement (i : Sys2Proof.Instr) : Prop :=
  (Sys2Proof.fieldsOf (Sys2Proof.encode i)).wellFormed = true ∧ i.wellFormed = true

namespace Sys2Proof.Laws.EncodedFieldsWellFormed

theorem nop : Statement .nop := by unfold Statement; decide

theorem kclr : Statement .kclr := by unfold Statement; decide

theorem kpush (b : Byte) : Statement (.kpush b) := by unfold Statement; revert b; decide +kernel

theorem ksa : Statement .ksa := by unfold Statement; decide

theorem gen : Statement .gen := by unfold Statement; decide

theorem xor (d : Byte) : Statement (.xor d) := by unfold Statement; revert d; decide +kernel

theorem rdstat : Statement .rdstat := by unfold Statement; decide

theorem rdklen : Statement .rdklen := by unfold Statement; decide

end Sys2Proof.Laws.EncodedFieldsWellFormed
end

