-- ==== Sys2Proof/Tests/Slice0.lean ====
section
/-! SUPPORT. The model's own tests. Every expected value is the spec's: the decode vectors of
95_test_vectors.md section 3, its vectors V2 to V9, the examples of the command rules, or a word written out from
the encoding of 30_encoding.md R82. -/

namespace Sys2Proof.Tests

open Sys2Proof.Machine

/-- The next state of an outcome, if there is one. -/
def after (o : Host.Outcome State Fault Refusal) : Option State :=
  match o with
  | .next s => some s
  | .fault _ => none
  | .refused _ => none

/-- The response word a step leaves, if it answers a next state. -/
def rspAfter (o : Host.Outcome State Fault Refusal) : Option Word := (after o).map fun s => s.RSP

/-- The reset state with a key in the buffer. -/
def withKey (K : Table) (len : BitVec 9) : State := { State.reset with K := K, KEYLEN := len }

/-- A keyed state with an array and indices of the test's choice (95_test_vectors.md V7). -/
def keyedWith (S : Table) (i j : Byte) : State :=
  { State.reset with S := S, i := i, j := j, KEYLEN := 1#9, READY := true }

/-- The key "Key", bytes 4B 65 79 (95_test_vectors.md V1). -/
def keyKey : State :=
  withKey (writeEntry (writeEntry (writeEntry State.reset.K 0#8 0x4B#8) 1#8 0x65#8) 2#8 0x79#8) 3#9

/-- The state with a full key buffer, not keyed (95_test_vectors.md V9). -/
def fullBuffer : State := withKey State.reset.K 256#9

/-- The array "reverse", S[n] = FF - n (95_test_vectors.md V7). -/
def reverseTable : Table := tabulate fun n => 0xFF#8 - n

/-- The step on a state in which the host presents a word. -/
def stepWord (w : Nat) (s : State) : Host.Outcome State Fault Refusal := step (s.withFetchWord 16 w)

/-! ### Well-formedness: one ill-formed term for each check -/

theorem test_wellFormed_accepts : ({ opc := 0x2, rsv := 0, imm := 0x4B } : CmdFields).wellFormed = true := by decide
theorem test_wellFormed_refuses_reserved_field :
    ({ opc := 0x2, rsv := 0xF, imm := 0x00 } : CmdFields).wellFormed = false := by decide
theorem test_wellFormed_refuses_reserved_opcode :
    ({ opc := 0xA, rsv := 0, imm := 0xFF } : CmdFields).wellFormed = false := by decide
theorem test_wellFormed_refuses_operand_of_ksa :
    ({ opc := 0x3, rsv := 0, imm := 0xFF } : CmdFields).wellFormed = false := by decide

/-! ### Decoding: each constructor from a word written out bit by bit, `oooo0000iiiiiiii` -/

theorem test_decode_nop : decode 0b0000000000000000#16 = .command .nop := by decide
theorem test_decode_kclr : decode 0b0001000000000000#16 = .command .kclr := by decide
theorem test_decode_kpush : decode 0b0010000001001011#16 = .command (.kpush 0x4B#8) := by decide
theorem test_decode_ksa : decode 0b0011000000000000#16 = .command .ksa := by decide
theorem test_decode_gen : decode 0b0100000000000000#16 = .command .gen := by decide
theorem test_decode_xor : decode 0b0101000010000000#16 = .command (.xor 0x80#8) := by decide
theorem test_decode_rdstat : decode 0b0110000000000000#16 = .command .rdstat := by decide
theorem test_decode_rdklen : decode 0b0111000000000000#16 = .command .rdklen := by decide

/-- The words of 95_test_vectors.md section 3 with a nonzero operand where none is taken. -/
theorem test_decode_operand_not_zero :
    ([0x0001, 0x1001, 0x30FF, 0x4001, 0x6080, 0x70FF].map fun w => decode (BitVec.ofNat 16 w))
      = List.replicate 6 (.illegal .operandNotZero) := by decide

/-- The words of 95_test_vectors.md section 3 with a nonzero reserved field. -/
theorem test_decode_reserved_field :
    ([0x0100, 0x2F00, 0x5A55, 0x7800].map fun w => decode (BitVec.ofNat 16 w))
      = List.replicate 4 (.illegal .reservedFieldNotZero) := by decide

/-- The words of 95_test_vectors.md section 3 with a reserved operation code. -/
theorem test_decode_reserved_opcode :
    ([0x8000, 0x9000, 0xA0FF].map fun w => decode (BitVec.ofNat 16 w))
      = List.replicate 3 (.illegal .reservedOpcode) := by decide

theorem test_encode_xor : encode (.xor 0x50#8) = 0x5050#16 := by decide
theorem test_decodeTableWord : decodeTableWord 16 0x20FF = some (.kpush 0xFF#8) := by decide

/-! ### Command responses (95_test_vectors.md V9) -/

theorem test_nop_after_reset : rspAfter (stepWord 0x0000 State.reset) = some 0x0000#16 := by decide
theorem test_rdstat_after_reset : rspAfter (stepWord 0x6000 State.reset) = some 0x0004#16 := by decide
theorem test_rdklen_after_reset : rspAfter (stepWord 0x7000 State.reset) = some 0x0000#16 := by decide
theorem test_gen_after_reset : rspAfter (stepWord 0x4000 State.reset) = some 0x3000#16 := by decide
theorem test_xor_after_reset : rspAfter (stepWord 0x5041 State.reset) = some 0x3000#16 := by decide
theorem test_ksa_after_reset : rspAfter (stepWord 0x3000 State.reset) = some 0x2000#16 := by decide
theorem test_kclr_ends_session :
    (after (stepWord 0x1000 (keyedWith identityTable 0#8 0#8))).map (fun s => (s.READY, s.KEYLEN, s.RSP))
      = some (false, 0#9, 0x0000#16) := by decide
theorem test_kpush_after_reset :
    (after (stepWord 0x204B State.reset)).map (fun s => (readEntry s.K 0#8, s.KEYLEN, s.RSP))
      = some (0x4B#8, 1#9, 0x0000#16) := by decide
theorem test_kpush_locked :
    rspAfter (stepWord 0x2065 (keyedWith identityTable 0#8 0#8)) = some 0x4000#16 := by decide
theorem test_kpush_discarded :
    (after (stepWord 0x20AA fullBuffer)).map (fun s => (readEntry s.K 0#8, s.KEYLEN, s.RSP))
      = some (0#8, 256#9, 0x0000#16) := by decide
theorem test_rdstat_full : rspAfter (stepWord 0x6000 fullBuffer) = some 0x0002#16 := by decide
theorem test_rdklen_full : rspAfter (stepWord 0x7000 fullBuffer) = some 0x0000#16 := by decide
theorem test_rdstat_keyed : rspAfter (stepWord 0x6000 (keyedWith identityTable 0#8 0#8)) = some 0x0001#16 := by decide
theorem test_rdklen_two : rspAfter (stepWord 0x7000 (withKey State.reset.K 2#9)) = some 0x0002#16 := by decide
theorem test_illegal_word : rspAfter (stepWord 0xF0FF State.reset) = some 0x1000#16 := by decide

/-! ### The PRGA step on synthetic arrays (95_test_vectors.md V7) -/

/-- i', j', the entries at i' and j' afterwards, and the byte. -/
def prgaRow (S : Table) (i j : Byte) : Byte × Byte × Byte × Byte × Byte :=
  let r := prgaStep S i j
  (r.i, r.j, readEntry r.S r.i, readEntry r.S r.j, r.ks)

theorem test_prga_self_swap : prgaRow identityTable 0x00#8 0x00#8 = (0x01#8, 0x01#8, 0x01#8, 0x01#8, 0x02#8) := by decide +kernel
theorem test_prga_i_wraps : prgaRow identityTable 0xFF#8 0x00#8 = (0x00#8, 0x00#8, 0x00#8, 0x00#8, 0x00#8) := by decide +kernel
theorem test_prga_t_is_i : prgaRow identityTable 0x7F#8 0x80#8 = (0x80#8, 0x00#8, 0x00#8, 0x80#8, 0x00#8) := by decide +kernel
theorem test_prga_reverse : prgaRow reverseTable 0x00#8 0x00#8 = (0x01#8, 0xFE#8, 0x01#8, 0xFE#8, 0x00#8) := by decide +kernel
theorem test_prga_zero_entry : prgaRow reverseTable 0xFE#8 0x05#8 = (0xFF#8, 0x05#8, 0xFA#8, 0x00#8, 0x05#8) := by decide +kernel

/-- `GEN` on the identity, i = 10, j = F0: the byte is 12 (95_test_vectors.md V7). -/
theorem test_gen_j_wraps :
    (after (stepWord 0x4000 (keyedWith identityTable 0x10#8 0xF0#8))).map (fun s => (s.i, s.j, s.RSP))
      = some (0x11#8, 0x01#8, 0x0012#16) := by decide +kernel

/-- `XOR` with the keystream byte itself gives 00 (43_xform.md R160, 95_test_vectors.md V7, last row). -/
theorem test_xor_of_keystream :
    rspAfter (stepWord 0x5005 (keyedWith reverseTable 0xFE#8 0x05#8)) = some 0x0000#16 := by decide +kernel

/-! ### The key schedule (95_test_vectors.md V2, V3, V5) -/

/-- Key 00: the first four iterations give j = 00, 01, 03, 05 (95_test_vectors.md V5). -/
theorem test_ksa_key_zero :
    ([1, 2, 3, 4].map fun n => (ksaLoop (cyclicKey (withKey State.reset.K 1#9)) n).2)
      = [0x00#8, 0x01#8, 0x03#8, 0x05#8] := by decide +kernel

/-- Key "Key": j after the first six iterations (95_test_vectors.md V2). -/
theorem test_ksa_key_first_six :
    ([1, 2, 3, 4, 5, 6].map fun n => (ksaLoop (cyclicKey keyKey) n).2)
      = [0x4B#8, 0xB1#8, 0x2C#8, 0x7A#8, 0xE3#8, 0x61#8] := by decide +kernel

/-- Key "Key": what `KSA` leaves, S[0..7], S[80] and the flags (95_test_vectors.md V2), and the first keystream
byte EB (V3). -/
theorem test_ksa_key_scheduled :
    (after (stepWord 0x3000 keyKey)).map (fun s =>
        (([0x00, 0x01, 0x02, 0x03, 0x04, 0x05, 0x06, 0x07, 0x80].map fun n => readEntry s.S (BitVec.ofNat 8 n)),
          s.i, s.j, s.READY, s.RSP, (prgaOf s).ks))
      = some ([0x4B#8, 0x33#8, 0x84#8, 0x9D#8, 0xC0#8, 0xC8#8, 0x1D#8, 0xA8#8, 0xB7#8],
          0x00#8, 0x00#8, true, 0x0000#16, 0xEB#8) := by decide +kernel

/-! ### The clock level -/

/-- An implementation with every latency 1 and no wait after reset. -/
def fastTiming : Timing := { latKsa := 1, latStep := 1, latCtrl := 1, latReset := 0, resetCount := .afterFirstEdge, ksaRate := fun _ => 0 }

/-- The same, with `LAT_RESET` counted as 30_encoding.md R73 counts it. -/
def countedFromReset : Timing := { fastTiming with resetCount := .sinceRstWasLast1 }

/-- The state after reset and one edge with `rst` = 0. -/
def ready : State := { State.reset with sinceReset := 1 }

/-- With `LAT_RESET` = 0, a word is accepted at the first edge with `rst` = 0 as 30_encoding.md R73 counts, and at the
second as 70_reset_and_hazards.md R242 counts. -/
theorem test_clock_first_edge_after_reset :
    (after (edges countedFromReset [⟨false, true, 0x6000#16, false⟩] State.reset)).map (fun s => s.PHASE) =
      some (.exec { cmd := 0x6000#16, cycles := 0, ksaCount := 0 }) ∧
    (after (edges fastTiming [⟨false, true, 0x6000#16, false⟩] State.reset)).map (fun s => s.PHASE) = some .idle ∧
    (after (edges fastTiming [⟨false, true, 0x6000#16, false⟩, ⟨false, true, 0x6000#16, false⟩] State.reset)).map
      (fun s => s.PHASE) = some (.exec { cmd := 0x6000#16, cycles := 0, ksaCount := 0 }) := by decide

/-- Accepted at one edge, `RDSTAT` responds at the next (30_encoding.md R72, R74). -/
theorem test_clock_rdstat :
    (after (edges fastTiming [⟨false, true, 0x6000#16, false⟩, ⟨false, false, 0#16, false⟩] ready)).map
        (fun s => (s.PHASE, s.RSP)) = some (.resp, 0x0004#16) := by decide

/-- A reset in `EXEC` abandons the command (70_reset_and_hazards.md R241). -/
theorem test_clock_reset_in_exec :
    (after (edges fastTiming [⟨false, true, 0x204B#16, false⟩, ⟨true, false, 0#16, false⟩] ready)).map
        (fun s => (s.PHASE, s.KEYLEN, s.READY)) = some (.idle, 0#9, false) := by decide

/-! ### The assembler (30_encoding.md R85, R86) -/

/-- `KPUSH 0x4B` is 204B. -/
theorem test_assemble_kpush :
    assemble [['K', 'P', 'U', 'S', 'H', ' ', '0', 'x', '4', 'B']] = some [0x204B#16] := by decide

/-- `XOR 'P'` is 5050 (95_test_vectors.md P1). -/
theorem test_assemble_xor :
    assemble [['X', 'O', 'R', ' ', quote, 'P', quote, ' ', ';', 'x']] = some [0x5050#16] := by decide

/-- `RC4GEN "AB", 2` is the beginning of program P2 (95_test_vectors.md). -/
theorem test_assemble_rc4gen :
    assemble [['R', 'C', '4', 'G', 'E', 'N', ' ', doubleQuote, 'A', 'B', doubleQuote, ',', ' ', '2']]
      = some [0x1000#16, 0x2041#16, 0x2042#16, 0x3000#16, 0x4000#16, 0x4000#16] := by decide

/-! ### The reference (30_encoding.md R148's empty key) -/

theorem test_reference_empty_key : Reference.generateKeystream [] 5 = none := by decide

/-! ### Witnesses: for each statement with hypotheses, a state and operands that meet all of them -/

open Sys2Proof.Safety Sys2Proof.Laws

/-- A keyed block with a permutation and one key byte. -/
def keyed : State := keyedWith identityTable 0#8 0#8

/-- A keyed block with a full key buffer. -/
def keyedFull : State := { keyed with KEYLEN := 256#9 }

/-- A block in the middle of a `KSA`, no iteration done. -/
def inLoop : State :=
  { withKey State.reset.K 1#9 with
    S := identityTable, PHASE := .exec { cmd := 0x3000#16, cycles := 0, ksaCount := 0 } }

/-- A block whose response waits. -/
def responding : State := { State.reset with PHASE := .resp }

theorem test_witness_inv_keyed : Inv keyed := ⟨by decide, fun _ => by decide, fun _ => isPermutation_identityTable⟩
theorem test_witness_inv_keyedFull : Inv keyedFull :=
  ⟨by decide, fun _ => by decide, fun _ => isPermutation_identityTable⟩
theorem test_witness_inv_fullBuffer : Inv fullBuffer := ⟨by decide, (fun h => by cases h), (fun h => by cases h)⟩
theorem test_witness_inv_reset : Inv State.reset := ⟨by decide, (fun h => by cases h), (fun h => by cases h)⟩
theorem test_witness_inv_oneByte : Inv (withKey State.reset.K 1#9) :=
  ⟨by decide, (fun h => by cases h), (fun h => by cases h)⟩
theorem test_witness_inv_255 : Inv (withKey State.reset.K 255#9) :=
  ⟨by decide, (fun h => by cases h), (fun h => by cases h)⟩

/-- `KpushAppendsDiscardsOrIsLocked`: the clauses at `KEYLEN` 0, 255, 256, and locked. -/
theorem test_witness_kpush :
    (State.reset.READY = false ∧ State.reset.KEYLEN.toNat < 256) ∧
    ((withKey State.reset.K 255#9).READY = false ∧ (withKey State.reset.K 255#9).KEYLEN.toNat < 256) ∧
    (fullBuffer.READY = false ∧ fullBuffer.KEYLEN.toNat = 256) ∧ keyedFull.READY = true := by decide

/-- `KsaSchedulesTheKey`: a key of 1 byte, a full buffer, an empty key. -/
theorem test_witness_ksa :
    (withKey State.reset.K 1#9).KEYLEN ≠ 0#9 ∧ fullBuffer.KEYLEN ≠ 0#9 ∧ State.reset.KEYLEN = 0#9 := by decide

/-- `GenTakesOnePrgaStep`, `XorCombinesOnePrgaStep`: keyed and not. -/
theorem test_witness_gen_xor : keyed.READY = true ∧ State.reset.READY = false := by decide

/-- `ErrorsChangeNothingElse`. -/
theorem test_witness_errors : ∃ t, runWord 0x4000#16 State.reset = .next t ∧ stOf t.RSP ≠ 0#4 :=
  ⟨raiseError .notKeyed State.reset, rfl, by decide⟩

/-- `StepRunsTheDecodedCommand`, with a response waiting and without. -/
theorem test_witness_step :
    (AtBoundary (presentWord 0x4000#16 State.reset) ∧ AtBoundary (presentWord 0x4000#16 responding)) ∧
    (presentWord 0x4000#16 responding).host = [.command 0x4000#16] ∧ decode 0x4000#16 = .command .gen :=
  ⟨⟨.inl rfl, .inr rfl⟩, rfl, by decide⟩

/-- `StepAnswersIllegalWords`. -/
theorem test_witness_step_illegal :
    AtBoundary (presentWord 0x0100#16 State.reset) ∧
    (presentWord 0x0100#16 State.reset).host = [.command 0x0100#16] ∧
    decode 0x0100#16 = .illegal .reservedFieldNotZero := ⟨.inl rfl, rfl, by decide⟩

/-- `StepFinishesOrIdles`: a command in progress, and an idle block. -/
theorem test_witness_step_finishes :
    (∃ p, inLoop.PHASE = .exec p ∧ decode p.cmd = .command .ksa) ∧ (∀ rest, inLoop.host ≠ .reset :: rest) ∧
    AtBoundary State.reset ∧ State.reset.host = [] :=
  ⟨⟨_, rfl, by decide⟩, fun _ h => (by cases h), .inl rfl, rfl⟩

/-- `PlacedWordRunsNext`. -/
theorem test_witness_placed : decodeTableWord 16 0x5001 = some (.xor 0x01#8) := by decide

/-- `ResetEventAbandonsTheCommand`, in `EXEC` and in `RESP`, with a word after it. -/
theorem test_witness_reset_event :
    { inLoop with host := [HostEvent.reset, .command 0x4000#16] }.host = .reset :: [.command 0x4000#16] ∧
    { responding with host := [HostEvent.reset, .command 0x4000#16] }.host = .reset :: [.command 0x4000#16] ∧
    [HostEvent.command 0x4000#16] = .command 0x4000#16 :: [] ∧ decode 0x4000#16 = .command .gen := by decide

/-- `ResetEdgeClearsTheBlock`. -/
theorem test_witness_reset_edge :
    (⟨true, true, 0x3000#16, false⟩ : PortsIn).rst = true ∧ fastTiming.resetCount = .afterFirstEdge ∧
    1 ≤ { countedFromReset with latReset := 1 }.latReset := by decide

/-- `IllegalWordsAreExactlyThree`: an illegal word. -/
theorem test_witness_illegal : decode 0xF0FF#16 = .illegal .reservedOpcode := by decide

/-- `DecodeFollowsTheOpcodeMap`: a word with an operand, and the row it selects. -/
theorem test_witness_opcode_map :
    decode 0x50FF#16 = .command (.xor 0xFF#8) ∧ (Instr.xor 0xFF#8).operand = some 0xFF#8 ∧
    ({ mnemonic := "XOR", mask := 0xFF00#16, pattern := 0x5000#16 } : OpcodeRow).selects 0x50FF#16 = true := by decide

/-- `KclrClearsTheKey`: two states, both cleared. -/
theorem test_witness_kclr : (∃ t, exec .kclr keyed = .next t) ∧ (∃ t, exec .kclr State.reset = .next t) :=
  ⟨⟨_, rfl⟩, ⟨_, rfl⟩⟩

/-- `EveryStepKeepsTheInvariant`: a keyed block takes a step. -/
theorem test_witness_step_inv : ∃ t, Inv (presentWord 0x4000#16 keyed) ∧ step (presentWord 0x4000#16 keyed) = .next t :=
  ⟨_, ⟨by decide, fun _ => by decide, fun _ => isPermutation_identityTable⟩, rfl⟩

/-- `EveryClockEdgeKeepsTheInvariant`: in the middle of the loop. -/
theorem test_witness_clock_inv :
    ∃ t, ClockInv inLoop ∧ edge { fastTiming with latKsa := 2 } ⟨false, false, 0#16, false⟩ inLoop = .next t :=
  ⟨_, ⟨⟨by decide, (fun h => by cases h), (fun h => by cases h)⟩, fun p h _ => by cases h; exact ⟨by decide, rfl⟩⟩, rfl⟩

/-- `KeyIsImmutableWhileKeyed`. -/
theorem test_witness_key_immutable :
    ∃ t, step (presentWord 0x0000#16 keyed) = .next t ∧ (presentWord 0x0000#16 keyed).READY = true ∧ t.READY = true :=
  ⟨_, rfl, rfl, rfl⟩

/-- `EachRegisterIsWrittenOnlyByItsCommands`: `READY` and `KEYLEN` written by `KCLR`, `K` by `KPUSH`, `i` by `GEN`. -/
theorem test_witness_written :
    (∃ t, exec .kclr keyed = .next t ∧ t.READY ≠ keyed.READY ∧ t.KEYLEN ≠ keyed.KEYLEN) ∧
    (∃ t, exec (.kpush 0x4B#8) State.reset = .next t ∧ readEntry t.K 0#8 ≠ readEntry State.reset.K 0#8) ∧
    (∃ t, exec .gen keyed = .next t ∧ t.i ≠ keyed.i) :=
  ⟨⟨_, rfl, by decide, by decide⟩, ⟨_, rfl, by decide⟩, ⟨_, rfl, by decide⟩⟩

/-- `StatusTakesFiveValues`: a state that meets the invariant for each of the five (see `test_witness_inv_*`). -/
theorem test_witness_status :
    (keyed.READY = true ∧ keyed.KEYLEN.toNat < 256) ∧ (fullBuffer.READY = false ∧ fullBuffer.KEYLEN.toNat = 256) ∧
    (keyedFull.READY = true ∧ keyedFull.KEYLEN.toNat = 256) ∧
    (State.reset.READY = false ∧ State.reset.KEYLEN.toNat = 0) ∧
    ((withKey State.reset.K 255#9).READY = false ∧ (withKey State.reset.K 255#9).KEYLEN.toNat ≤ 255) := by decide

/-- `HiddenContentsReachNoResponse`: the two states hold different arrays. -/
theorem test_witness_hidden :
    AtBoundary State.reset ∧ AtBoundary responding ∧
    LookAlike State.reset { responding with S := identityTable, K := identityTable, i := 7#8 } :=
  ⟨.inl rfl, .inr rfl, ⟨rfl, rfl, fun n h => absurd h (Nat.not_lt_zero _), fun h => by cases h⟩⟩

/-- `ControlWordsMayStandAnywhere` and the runs from a command boundary. -/
theorem test_witness_boundary : AtBoundary State.reset ∧ AtBoundary responding := ⟨.inl rfl, .inr rfl⟩

/-- `RefusedWordsChangeNoOtherResponse`: a `GEN` before any key. -/
theorem test_witness_refused :
    ∃ m', AtBoundary State.reset ∧ runWords [] State.reset = some ([], State.reset) ∧
      runWords [0x4000#16] State.reset = some ([0x3000#16], m') ∧ stOf 0x3000#16 ≠ 0#4 :=
  ⟨_, .inl rfl, rfl, rfl, by decide⟩

/-- `PrgaStepKeepsThePermutation`, `SelfSwapStepReadsTwiceTheEntry`: the identity. -/
theorem test_witness_prga : IsPermutation identityTable ∧ 0#8 + readEntry identityTable (0#8 + 1#8) = 0#8 + 1#8 :=
  ⟨isPermutation_identityTable, by decide⟩

/-- `KeyPointerIsTheRemainder`: the shortest and the longest key. -/
theorem test_witness_pointer : 1 ≤ 1 ∧ keyPointer 1 5 = 0 ∧ 1 ≤ 256 ∧ keyPointer 256 5 = 5 := by decide

/-- `LoopInPortionsIsTheCommand`: no iteration first, and all of them. -/
theorem test_witness_portions : 0 ≤ 256 ∧ 256 ≤ 256 ∧ (withKey State.reset.K 1#9).KEYLEN ≠ 0#9 := by decide

/-- `OnlyTheCyclicExtensionCounts`: the keys 00 and 00 00; a repetition once. -/
theorem test_witness_cyclic :
    (∀ n < 256, cyclicKey (withKey State.reset.K 1#9) n = cyclicKey (withKey State.reset.K 2#9) n) ∧
    (∃ t, exec .ksa (withKey State.reset.K 1#9) = .next t) ∧ (∃ t, exec .ksa (withKey State.reset.K 2#9) = .next t) ∧
    1 ≤ 1 := ⟨by decide +kernel, ⟨_, rfl⟩, ⟨_, rfl⟩, by decide⟩

/-- `KsaRestartsTheKeystream`: a keyed block and a fresh one with the same key. -/
theorem test_witness_restart :
    AtBoundary keyed ∧ AtBoundary (withKey State.reset.K 1#9) ∧ keyed.KEYLEN ≠ 0#9 ∧
    keyed.KEYLEN = (withKey State.reset.K 1#9).KEYLEN ∧ keyed.K = (withKey State.reset.K 1#9).K :=
  ⟨.inl rfl, .inl rfl, by decide, rfl, rfl⟩

/-- `IndexCountsTheSteps`. -/
theorem test_witness_index :
    AtBoundary keyKey ∧ keyKey.KEYLEN ≠ 0#9 ∧ ∀ c ∈ [Instr.gen, .xor 0x50#8], c = .gen ∨ ∃ d, c = .xor d := by
  refine ⟨.inl rfl, by decide, fun c h => ?_⟩
  rcases List.mem_cons.1 h with h | h
  · exact .inl h
  · exact .inr ⟨_, List.mem_singleton.1 h⟩

/-- `KeyBytesArriveInOrder`, `LongKeysAreTruncatedExactly`, and the statements about a key that is not empty: the
lengths where the clauses meet. -/
theorem test_witness_keys :
    ([] : List Byte).length ≤ 256 ∧ (List.replicate 256 0x4B#8).length ≤ 256 ∧
    256 < (List.replicate 257 0x4B#8).length ∧ [0x4B#8] ≠ [] :=
  ⟨Nat.zero_le _, List.length_replicate.le, List.length_replicate.ge, List.cons_ne_nil _ _⟩

/-- `ClockRunIsTheTransaction`: the shortest latency. -/
theorem test_witness_clock_run :
    fastTiming.Legal ∧ ready.PHASE = .idle ∧ cmdReady fastTiming false ready = true ∧
    [(⟨false, true, 0xFFFF#16, true⟩ : PortsIn)].length = latencyOf fastTiming 0x3000#16 ∧
    (∀ y ∈ [(⟨false, true, 0xFFFF#16, true⟩ : PortsIn)], y.rst = false) ∧
    [] <+: [(⟨false, true, 0xFFFF#16, true⟩ : PortsIn)] :=
  ⟨by unfold Timing.Legal; decide, rfl, by decide, by decide, by decide, by decide⟩

/-- `ResponseIsHeldUntilTaken`. -/
theorem test_witness_response_held :
    responding.PHASE = .resp ∧ (∀ y ∈ [(⟨false, true, 0#16, false⟩ : PortsIn)], y.rst = false ∧ y.rspReady = false) ∧
    (⟨false, false, 0#16, true⟩ : PortsIn).rspReady = true := by decide

/-- `NothingIsAcceptedUnlessReady`: ready, and not. -/
theorem test_witness_ready :
    cmdReady fastTiming false ready = true ∧ cmdReady fastTiming false State.reset = false ∧
    cmdReady countedFromReset false State.reset = true ∧
    cmdReady fastTiming false responding = false ∧ cmdReady { fastTiming with latReset := 1 } false ready = false := by
  decide

/-- `CmdReadyRisesAfterTheWait`: no wait, and a wait of one edge. -/
theorem test_witness_wait :
    (⟨true, false, 0#16, false⟩ : PortsIn).rst = true ∧ ([] : List PortsIn).length ≤ countedFromReset.resetWait ∧
    [(⟨false, false, 0#16, false⟩ : PortsIn)].length ≤ fastTiming.resetWait ∧
    (∀ y ∈ [(⟨false, false, 0#16, false⟩ : PortsIn)], y.rst = false) := by decide

/-- `OfferHeldAfterResetIsAccepted`: a wait of one edge, and none. -/
theorem test_witness_offer :
    (State.reset.sinceReset + 1 = fastTiming.resetWait ∧
      offersHeld fastTiming [⟨false, true, 0x3000#16, false⟩, ⟨false, true, 0x3000#16, false⟩]
        State.reset = true) ∧
    (State.reset.sinceReset + 0 = countedFromReset.resetWait ∧
      offersHeld countedFromReset [⟨false, true, 0x3000#16, false⟩] State.reset = true) := by decide

/-- `InstancesShareNothing`. -/
theorem test_witness_instances :
    ∃ a b, (0 : Nat) ≠ 1 ∧ stepInstance 0 [keyed, State.reset] = some a ∧ stepInstance 1 [keyed, State.reset] = some b :=
  ⟨_, _, by decide, rfl, rfl⟩

end Sys2Proof.Tests
end

section
/-! PROOFS. A swap of the array (00_scope.md R14), and an accepted word's cycles in `EXEC` against its transaction
(00_scope.md R10, 10_state.md R32, 41_ksa.md R129). -/

namespace Sys2Proof.Proofs

open Sys2Proof.Machine Sys2Proof.Safety Sys2Proof.Laws

/-! ### Arrays -/

/-- A swap of an entry with itself leaves the array unchanged (00_scope.md R14). -/
@[simp] theorem swapEntries_self (a : Table) (p : Byte) : swapEntries a p p = a := by
  refine table_ext fun n => ?_
  rw [readEntry_swapEntries]
  by_cases h : n = p
  · simp [h]
  · simp [h]

/-- Settles O32: the read after a swap is `readEntry_swapEntries`, and the self-swap is the identity. -/
theorem swapReadsBeforeItWrites : Obligations.SwapReadsBeforeItWrites :=
  fun a p q => ⟨readEntry_swapEntries a p q, swapEntries_self a p⟩

/-! ### A state at a cycle: another phase, some cycles later

No command reads the phase or a cycle count, so a command's effect commutes with changing them. -/

/-- `s` in phase `p`, with `n` more edges counted. -/
def atCycle (n : Nat) (p : Phase) (s : State) : State :=
  { s with PHASE := p, sinceReset := s.sinceReset + n, draws := s.draws + n }

@[simp] theorem atCycle_PHASE (n : Nat) (p : Phase) (s : State) : (atCycle n p s).PHASE = p := rfl
@[simp] theorem atCycle_READY (n : Nat) (p : Phase) (s : State) : (atCycle n p s).READY = s.READY := rfl
@[simp] theorem atCycle_KEYLEN (n : Nat) (p : Phase) (s : State) : (atCycle n p s).KEYLEN = s.KEYLEN := rfl

@[simp] theorem loopRuns_atCycle (w : Word) (n : Nat) (p : Phase) (s : State) :
    loopRuns w (atCycle n p s) = loopRuns w s := rfl

@[simp] theorem tick_atCycle (n : Nat) (p : Phase) (s : State) : tick (atCycle n p s) = atCycle (n + 1) p s := rfl

@[simp] theorem enterPhase_atCycle (n : Nat) (p q : Phase) (s : State) :
    enterPhase q (atCycle n p s) = atCycle n q s := rfl

/-- A response ends the phase whatever it was. -/
@[simp] theorem respond_atCycle (st : Status) (d : Byte) (n : Nat) (p : Phase) (s : State) :
    respond st d (atCycle n p s) = atCycle n .resp (respond st d s) := rfl

@[simp] theorem raiseError_atCycle (e : Status) (n : Nat) (p : Phase) (s : State) :
    raiseError e (atCycle n p s) = atCycle n .resp (raiseError e s) := rfl

@[simp] theorem ksaEnd_atCycle (n : Nat) (p : Phase) (s : State) :
    ksaEnd (atCycle n p s) = atCycle n .resp (ksaEnd s) := rfl

@[simp] theorem scheduleKey_atCycle (n : Nat) (p : Phase) (s : State) :
    scheduleKey (atCycle n p s) = atCycle n p (scheduleKey s) := rfl

@[simp] theorem prgaOf_atCycle (n : Nat) (p : Phase) (s : State) : prgaOf (atCycle n p s) = prgaOf s := rfl

@[simp] theorem advanceKeystream_atCycle (n : Nat) (p : Phase) (s : State) :
    advanceKeystream (atCycle n p s) = atCycle n p (advanceKeystream s) := rfl

@[simp] theorem appendKeyByte_atCycle (b : Byte) (n : Nat) (p : Phase) (s : State) :
    appendKeyByte b (atCycle n p s) = atCycle n p (appendKeyByte b s) := by
  unfold appendKeyByte
  rw [atCycle_KEYLEN]
  split <;> rfl

@[simp] theorem ksaMicroStep_atCycle (k n : Nat) (p : Phase) (s : State) :
    ksaMicroStep k (atCycle n p s) = atCycle n p (ksaMicroStep k s) := rfl

@[simp] theorem ksaMicroSteps_atCycle (c k n : Nat) (p : Phase) (s : State) :
    ksaMicroSteps c k (atCycle n p s) = atCycle n p (ksaMicroSteps c k s) := by
  induction c generalizing k s with
  | zero => rfl
  | succ c ih => simp [ksaMicroSteps, ih]

/-- A command gives the same result from any phase and at any cycle, but for the counts. -/
theorem exec_atCycle (i : Instr) (n : Nat) (p : Phase) (s : State) :
    ∃ u, exec i s = .next u ∧ exec i (atCycle n p s) = .next (atCycle n .resp u) := by
  cases i with
  | nop => exact ⟨_, rfl, rfl⟩
  | kclr => exact ⟨_, rfl, rfl⟩
  | kpush b => cases h : s.READY <;> simp [exec, execKpush, h]
  | ksa => by_cases h : s.KEYLEN = 0#9 <;> simp [exec, execKsa, h]
  | gen => cases h : s.READY <;> simp [exec, execGen, h]
  | xor d => cases h : s.READY <;> simp [exec, execXor, h]
  | rdstat => exact ⟨_, rfl, rfl⟩
  | rdklen => exact ⟨_, rfl, rfl⟩

/-- The same for a word, legal or not. -/
theorem runWord_atCycle (w : Word) (n : Nat) (p : Phase) (s : State) :
    ∃ u, runWord w s = .next u ∧ runWord w (atCycle n p s) = .next (atCycle n .resp u) := by
  unfold runWord
  cases decode w with
  | command i => exact exec_atCycle i n p s
  | illegal why => exact ⟨_, rfl, rfl⟩

/-- No command writes a cycle count. -/
theorem exec_keeps_counts {i : Instr} {s t : State} (h : exec i s = .next t) :
    t.sinceReset = s.sinceReset ∧ t.draws = s.draws := by
  obtain ⟨st, d, u, hx, hu⟩ := exec_cases i s
  obtain rfl : respond st d u = t := Host.Outcome.next.inj (hx.symm.trans h)
  rcases hu with rfl | ⟨-, rfl⟩ | ⟨⟨b, -, rfl⟩, -⟩ | ⟨-, -, rfl⟩ | ⟨-, -, rfl⟩ <;> simp

/-- No word writes a cycle count. -/
theorem runWord_keeps_counts {w : Word} {s t : State} (h : runWord w s = .next t) :
    t.sinceReset = s.sinceReset ∧ t.draws = s.draws := by
  rcases runWord_cases w s with ⟨i, -, hi⟩ | ⟨why, -, hw⟩
  · exact exec_keeps_counts (hi.symm.trans h)
  · obtain rfl : raiseError .illegal s = t := Host.Outcome.next.inj (hw.symm.trans h)
    exact ⟨rfl, rfl⟩

/-! ### The loop of `KSA` in the registers -/

/-- Iterations of the loop write `S`, `i` and `j` only. -/
theorem ksaMicroSteps_frame (c n : Nat) (s : State) :
    ksaMicroSteps c n s =
      { s with S := (ksaMicroSteps c n s).S, i := (ksaMicroSteps c n s).i, j := (ksaMicroSteps c n s).j } := by
  induction c generalizing n s with
  | zero => rfl
  | succ c ih => rw [ksaMicroSteps, ih]; rfl

/-- All 256 iterations leave the scheduled array (41_ksa.md R129). -/
theorem ksaMicroSteps_all_S (s : State) :
    (ksaMicroSteps 256 0 (ksaBegin s)).S = scheduledArray (cyclicKey s) := by
  have h := ksaMicroSteps_loop 256 0 (ksaBegin s) rfl
  rw [scheduledArray, Config.entriesOfS_eq, ← cyclicKey_congr (ksaBegin_K s) (ksaBegin_KEYLEN s)]
  simpa using congrArg Prod.fst h

/-- The loop run to its end in the registers is the key schedule and its response (41_ksa.md R120, R129). -/
theorem ksaEnd_ksaMicroSteps_all (s : State) :
    ksaEnd (ksaMicroSteps 256 0 (ksaBegin s)) = respond .ok 0x00#8 (scheduleKey s) := by
  rw [ksaMicroSteps_frame, ksaMicroSteps_all_S]
  rfl

/-- A word whose loop runs is `KSA` with a key, and its transaction is the loop run to its end. -/
theorem runWord_of_loopRuns {w : Word} {s : State} (h : loopRuns w s = true) :
    runWord w s = .next (ksaEnd (ksaMicroSteps 256 0 (ksaBegin s))) := by
  obtain ⟨hw, hk⟩ : decode w = .command .ksa ∧ s.KEYLEN ≠ 0#9 := by simpa [loopRuns, isKsaWord] using h
  rw [ksaEnd_ksaMicroSteps_all]
  simp [runWord, hw, exec, execKsa, hk]

/-- Whether the loop runs does not change while it runs. -/
@[simp] theorem loopRuns_ksaMicroSteps (w : Word) (c n : Nat) (s : State) :
    loopRuns w (ksaMicroSteps c n s) = loopRuns w s := by simp [loopRuns]

/-! ### Edges -/

/-- A run of edges in two parts: the second starts where the first ended. -/
theorem edges_append {T : Timing} {xs : List PortsIn} (ys : List PortsIn) {s t : State}
    (h : edges T xs s = .next t) : edges T (xs ++ ys) s = edges T ys t := by
  induction xs generalizing s with
  | nil => cases h; rfl
  | cons x xs ih =>
    simp only [edges, List.cons_append] at h ⊢
    cases hx : edge T x s with
    | next u => rw [hx] at h; exact ih h
    | fault r => cases r
    | refused r => rw [hx] at h; cases h

/-- Every word has a latency of at least one cycle (00_scope.md R10). -/
theorem one_le_latencyOf {T : Timing} (hT : T.Legal) (w : Word) : 1 ≤ latencyOf T w := by
  obtain ⟨hksa, hstep, hctrl⟩ := hT
  unfold latencyOf
  split <;> assumption

/-- The registers once a word is accepted: a loop that runs is initialised. -/
def beginWord (w : Word) (s : State) : State := if loopRuns w s then ksaBegin s else s

@[simp] theorem loopRuns_beginWord (w : Word) (s : State) : loopRuns w (beginWord w s) = loopRuns w s := by
  unfold beginWord; split <;> rfl

/-- Cycle `k` of `EXEC` for the word `w`, `k + 1` edges after its acceptance: `c` iterations of the loop are done, and
the registers are those of `b`. -/
def inExec (w : Word) (k c : Nat) (b : State) : State :=
  atCycle (k + 1) (.exec { cmd := w, cycles := k, ksaCount := c }) b

/-- Acceptance starts the word's first cycle in `EXEC` (30_encoding.md R72). -/
theorem acceptWord_tick (w : Word) (s : State) : acceptWord w (tick s) = inExec w 0 0 (beginWord w s) := by
  have h : loopRuns w (tick s) = loopRuns w s := rfl
  unfold acceptWord beginWord
  rw [h]
  split <;> rfl

/-- The edge at which an idle, ready block accepts the word offered. -/
theorem edge_accepts {T : Timing} {x : PortsIn} {s : State} (hp : s.PHASE = .idle) (hr : x.rst = false)
    (hv : x.cmdValid = true) (hc : cmdReady T false s = true) :
    edge T x s = .next (inExec x.cmdWord 0 0 (beginWord x.cmdWord s)) := by
  rw [← acceptWord_tick]
  simp [edge, hr, hp, hv, hc]

/-- A cycle does at most the iterations that are left, and none for a word whose loop does not run. -/
theorem iterationsNow_bounds (T : Timing) (p : InProgress) (s : State) :
    iterationsNow T p s ≤ 256 - p.ksaCount ∧ (loopRuns p.cmd s = false → iterationsNow T p s = 0) := by
  cases h : loopRuns p.cmd s <;> simp [iterationsNow, h]

/-- An edge inside `EXEC`, before the latency has passed, does some of the iterations that are left. -/
theorem edge_progresses {T : Timing} {x : PortsIn} {w : Word} {k : Nat} (c : Nat) (b : State) (hr : x.rst = false)
    (hl : k + 1 < latencyOf T w) :
    ∃ m ≤ 256 - c, (loopRuns w b = false → m = 0) ∧
      edge T x (inExec w k c b) = .next (inExec w (k + 1) (c + m) (ksaMicroSteps m c b)) := by
  obtain ⟨hle, hnone⟩ := iterationsNow_bounds T { cmd := w, cycles := k, ksaCount := c } b
  refine ⟨_, hle, hnone, ?_⟩
  have he : edge T x (inExec w k c b) =
      .next (progressWord T { cmd := w, cycles := k, ksaCount := c } (tick (inExec w k c b))) := by
    simp [edge, inExec, hr, Nat.not_le.2 hl]
  rw [he, inExec, tick_atCycle, progressWord, ksaMicroSteps_atCycle, enterPhase_atCycle]
  rfl

/-- The last edge in `EXEC` completes the word. -/
theorem edge_completes {T : Timing} {x : PortsIn} {w : Word} {k : Nat} (c : Nat) (b : State) (hr : x.rst = false)
    (hl : latencyOf T w ≤ k + 1) :
    edge T x (inExec w k c b) =
      completeWord { cmd := w, cycles := k, ksaCount := c } (tick (inExec w k c b)) := by
  simp [edge, inExec, hr, hl]

/-- Edges inside `EXEC`, before the latency has passed, do some of the iterations that are left and nothing else. -/
theorem edges_progress {T : Timing} {w : Word} {ys : List PortsIn} (k c : Nat) (b : State)
    (hr : ∀ y ∈ ys, y.rst = false) (hl : k + ys.length < latencyOf T w) (hc : c ≤ 256) :
    ∃ m, c + m ≤ 256 ∧ (loopRuns w b = false → m = 0) ∧
      edges T ys (inExec w k c b) = .next (inExec w (k + ys.length) (c + m) (ksaMicroSteps m c b)) := by
  induction ys generalizing k c b with
  | nil => exact ⟨0, hc, fun _ => rfl, rfl⟩
  | cons y ys ih =>
    obtain ⟨hy, hys⟩ := List.forall_mem_cons.1 hr
    rw [List.length_cons] at hl
    obtain ⟨m, hle, hnone, first⟩ := edge_progresses (T := T) (w := w) (k := k) c b hy (by omega)
    obtain ⟨m', hm', hnone', rest⟩ := ih (k + 1) (c + m) (ksaMicroSteps m c b) hys (by omega) (by omega)
    refine ⟨m + m', by omega, fun h => ?_, ?_⟩
    · rw [hnone h, hnone' (by simpa using h)]
    · simp only [edges, first, rest, ksaMicroSteps_add, List.length_cons, Nat.add_assoc, Nat.add_comm 1]

/-- The word accepted, an edge for each of `ys`, and the latency not yet over: the block is in `EXEC`, its loop some
way on. -/
theorem edges_accepted {T : Timing} {x : PortsIn} {ys : List PortsIn} {s : State}
    (hp : s.PHASE = .idle) (hx : x.rst = false) (hv : x.cmdValid = true) (hc : cmdReady T false s = true)
    (hr : ∀ y ∈ ys, y.rst = false) (hl : ys.length < latencyOf T x.cmdWord) :
    ∃ m ≤ 256, (loopRuns x.cmdWord s = false → m = 0) ∧
      edges T (x :: ys) s =
        .next (inExec x.cmdWord ys.length m (ksaMicroSteps m 0 (beginWord x.cmdWord s))) := by
  obtain ⟨m, hm, hnone, he⟩ := edges_progress (T := T) (w := x.cmdWord) 0 0 (beginWord x.cmdWord s) hr (by omega)
    (Nat.zero_le 256)
  simp only [Nat.zero_add, loopRuns_beginWord] at hm hnone he
  exact ⟨m, hm, hnone, by simp only [edges, edge_accepts hp hx hv hc, he]⟩

/-- The last cycle gives what the transaction gives, however many iterations were done before it (41_ksa.md R129). -/
theorem completeWord_is_runWord {w : Word} {s : State} (k m : Nat) (hm : m ≤ 256)
    (hnone : loopRuns w s = false → m = 0) :
    ∃ u, runWord w s = .next u ∧
      completeWord { cmd := w, cycles := k, ksaCount := m }
        (tick (inExec w k m (ksaMicroSteps m 0 (beginWord w s)))) = .next (atCycle (k + 2) .resp u) := by
  rw [inExec, tick_atCycle]
  cases h : loopRuns w s with
  | true =>
    refine ⟨_, runWord_of_loopRuns h, ?_⟩
    have all : ksaMicroSteps 256 0 (ksaBegin s) = ksaMicroSteps (256 - m) m (ksaMicroSteps m 0 (ksaBegin s)) := by
      conv_lhs => rw [← Nat.add_sub_cancel' hm, ksaMicroSteps_add, Nat.zero_add]
    have hb : beginWord w s = ksaBegin s := if_pos h
    rw [completeWord, if_pos (by simpa using h), hb, ksaMicroSteps_atCycle, ksaEnd_atCycle, all]
  | false =>
    obtain rfl := hnone h
    have hb : beginWord w s = s := if_neg (by simp [h])
    obtain ⟨u, hu, hat⟩ := runWord_atCycle w (k + 2) (.exec { cmd := w, cycles := k, ksaCount := 0 }) s
    exact ⟨u, hu, by rw [completeWord, if_neg (by simp [h]), hb]; exact hat⟩

/-- The response's state at the edge of its completion, the counts written out. -/
theorem atCycle_resp_of_runWord {w : Word} {s u : State} (n : Nat) (h : runWord w s = .next u) :
    atCycle n .resp u = { u with sinceReset := s.sinceReset + n, draws := s.draws + n } := by
  obtain ⟨t, ht, hphase⟩ := runWord_answers w s
  obtain rfl : t = u := Host.Outcome.next.inj (ht.symm.trans h)
  obtain ⟨hsince, hdraws⟩ := runWord_keeps_counts h
  rw [atCycle, hsince, hdraws, ← hphase]

/-- Settles O48: while the latency runs, the block stands in `EXEC` with its loop some way on (`edges_accepted`); the
last cycle ends in the transaction's state (`completeWord_is_runWord`). -/
theorem clockRunIsTheTransaction : Obligations.ClockRunIsTheTransaction := by
  intro T x xs s hT hp hx hv hc hlen hr
  constructor
  · have hpos := one_le_latencyOf hT x.cmdWord
    obtain rfl | ⟨ys, z, rfl⟩ := List.eq_nil_or_concat' xs
    · rw [List.length_nil] at hlen; omega
    rw [List.length_append, List.length_singleton] at hlen ⊢
    obtain ⟨m, hm, hnone, he⟩ := edges_accepted hp hx hv hc (fun y hy => hr y (List.mem_append_left _ hy))
      (show ys.length < latencyOf T x.cmdWord by omega)
    obtain ⟨u, hu, hcomplete⟩ := completeWord_is_runWord ys.length m hm hnone
    refine ⟨u, hu, ?_⟩
    rw [← List.cons_append, edges_append [z] he]
    simp only [edges, edge_completes _ _ (hr z (by simp)) hlen.ge, hcomplete, atCycle_resp_of_runWord _ hu]
  · intro ys hys hne
    have hlt : ys.length < xs.length := lt_of_le_of_ne hys.length_le fun e => hne (hys.eq_of_length e)
    obtain ⟨m, -, -, he⟩ := edges_accepted hp hx hv hc (fun y hy => hr y (hys.subset hy)) (hlen ▸ hlt)
    exact ⟨_, he, rfl, rfl⟩

end Sys2Proof.Proofs
end

section
/-! PROOFS. The invariants of 10_state.md: what a word and a step can do to the registers, which of them keep the
invariant of the block (R22, R26, R29) and that of the signal level (41_ksa.md R129), who writes each register, and
what no response can show (R35). -/

namespace Sys2Proof.Proofs

open Sys2Proof.Machine Sys2Proof.Safety Sys2Proof.Laws

/-! ### What a word and a step do to the registers -/

/-- A word that runs presents a response on one of five states, each under the guard of the command that gives it. -/
theorem runWord_effect {w : Word} {s t : State} (h : runWord w s = .next t) :
    ∃ (st : Status) (d : Byte) (u : State), t = respond st d u ∧
      (u = s ∨ u = { s with KEYLEN := 0#9, READY := false } ∨ ((∃ b, u = appendKeyByte b s) ∧ s.READY = false) ∨
        (s.KEYLEN ≠ 0#9 ∧ u = scheduleKey s) ∨ (s.READY = true ∧ u = advanceKeystream s)) := by
  rcases runWord_cases w s with ⟨i, -, hi⟩ | ⟨why, -, hw⟩
  · obtain ⟨st, d, u, hx, hu⟩ := exec_cases i s
    refine ⟨st, d, u, Host.Outcome.next.inj (h.symm.trans (hi.trans hx)), ?_⟩
    rcases hu with rfl | ⟨-, rfl⟩ | ⟨⟨b, -, rfl⟩, hr⟩ | ⟨-, hk, rfl⟩ | ⟨-, hr, rfl⟩
    · exact .inl rfl
    · exact .inr (.inl rfl)
    · exact .inr (.inr (.inl ⟨⟨b, rfl⟩, hr⟩))
    · exact .inr (.inr (.inr (.inl ⟨hk, rfl⟩)))
    · exact .inr (.inr (.inr (.inr ⟨hr, rfl⟩)))
  · exact ⟨_, _, s, Host.Outcome.next.inj (h.symm.trans hw), .inl rfl⟩

/-- A step's next state is that of a reset, of idling, or of a word that runs, on a state that differs from the one
before at most in the phase and the host's side. -/
theorem step_effect {s t : State} (h : step s = .next t) :
    (∃ host, t = applyReset { s with host := host }) ∨ t = takeResponse s ∨
      ∃ w phase host, runWord w { s with PHASE := phase, host := host } = .next t := by
  rcases step_cases s with ⟨rest, -, hs⟩ | ⟨p, -, hs⟩ | ⟨w, rest, -, -, hs⟩ | ⟨-, -, hs⟩
  · exact .inl ⟨rest, Host.Outcome.next.inj (h.symm.trans hs)⟩
  · exact .inr (.inr ⟨p.cmd, s.PHASE, s.host, hs.symm.trans h⟩)
  · exact .inr (.inr ⟨w, .idle, rest, hs.symm.trans h⟩)
  · exact .inr (.inl (Host.Outcome.next.inj (h.symm.trans hs)))

/-- `KPUSH` leaves the key length, or adds one to a length below 256 (40_key.md R101, R102). -/
theorem appendKeyByte_KEYLEN_cases (b : Byte) (s : State) :
    (appendKeyByte b s).KEYLEN = s.KEYLEN ∨
      (s.KEYLEN.toNat < 256 ∧ (appendKeyByte b s).KEYLEN = s.KEYLEN + 1#9) := by
  unfold appendKeyByte
  split
  · exact .inr ⟨‹_›, rfl⟩
  · exact .inl rfl

/-! ### Arrays that stay permutations -/

/-- The loop's array is a permutation after any number of iterations (41_ksa.md R128). -/
theorem isPermutation_ksaLoop (E : Nat → Byte) (n : Nat) : IsPermutation (ksaLoop E n).1 := by
  induction n with
  | zero => exact isPermutation_identityTable
  | succ n ih => exact isPermutation_swapEntries _ _ ih

/-- A PRGA step keeps a permutation, since it only swaps (42_prga.md R146). -/
theorem isPermutation_prgaStep {S : Table} (i j : Byte) (h : IsPermutation S) : IsPermutation (prgaStep S i j).S :=
  isPermutation_swapEntries _ _ h

/-! ### The invariant of the block -/

/-- The invariant reads `KEYLEN`, `READY` and `S` only. -/
theorem inv_of_registers_eq {s t : State} (h : Inv s) (hL : t.KEYLEN = s.KEYLEN) (hR : t.READY = s.READY)
    (hS : t.S = s.S) : Inv t := by
  obtain ⟨hle, hkey, hperm⟩ := h
  exact ⟨hL ▸ hle, hL ▸ hR ▸ hkey, hS ▸ hR ▸ hperm⟩

/-- A block that is not keyed needs only the bound on its key length. -/
theorem inv_of_not_keyed {s : State} (hL : s.KEYLEN.toNat ≤ 256) (hR : s.READY = false) : Inv s :=
  ⟨hL, by simp [hR], by simp [hR]⟩

theorem inv_applyReset (s : State) : Inv (applyReset s) := inv_of_not_keyed (Nat.zero_le _) rfl

theorem inv_respond (st : Status) (d : Byte) {s : State} (h : Inv s) : Inv (respond st d s) :=
  inv_of_registers_eq h rfl rfl rfl

/-- A key byte appended keeps the bound of 256 (10_state.md R26). -/
theorem inv_appendKeyByte (b : Byte) {s : State} (h : Inv s) (hR : s.READY = false) : Inv (appendKeyByte b s) := by
  refine inv_of_not_keyed ?_ (by simpa using hR)
  rcases appendKeyByte_KEYLEN_cases b s with e | ⟨hlt, e⟩ <;> rw [e]
  · exact h.keylen_le
  · bv_omega

/-- A key that is not empty has a byte. -/
theorem one_le_KEYLEN {s : State} (hk : s.KEYLEN ≠ 0#9) : 1 ≤ s.KEYLEN.toNat := by bv_omega

/-- The schedule of a key leaves a keyed block with a permutation (41_ksa.md R128). -/
theorem inv_scheduleKey {s : State} (h : Inv s) (hk : s.KEYLEN ≠ 0#9) : Inv (scheduleKey s) :=
  ⟨h.keylen_le, fun _ => one_le_KEYLEN hk, fun _ => isPermutation_ksaLoop _ _⟩

theorem inv_advanceKeystream {s : State} (h : Inv s) : Inv (advanceKeystream s) :=
  ⟨h.keylen_le, h.keyed_has_key, fun hr => isPermutation_prgaStep _ _ (h.keyed_permutation hr)⟩

/-- Every word keeps the invariant. -/
theorem runWord_keeps_inv {w : Word} {s t : State} (h : Inv s) (ht : runWord w s = .next t) : Inv t := by
  obtain ⟨st, d, u, rfl, hu⟩ := runWord_effect ht
  refine inv_respond st d ?_
  rcases hu with rfl | rfl | ⟨⟨b, rfl⟩, hr⟩ | ⟨hk, rfl⟩ | ⟨-, rfl⟩
  · exact h
  · exact inv_of_not_keyed (Nat.zero_le _) rfl
  · exact inv_appendKeyByte b h hr
  · exact inv_scheduleKey h hk
  · exact inv_advanceKeystream h

/-- Settles O24: a step is a reset, idling, or a word that runs, and each keeps the invariant. -/
theorem everyStepKeepsTheInvariant : Obligations.EveryStepKeepsTheInvariant := by
  intro s t h ht
  rcases step_effect ht with ⟨host, rfl⟩ | rfl | ⟨w, phase, host, hw⟩
  · exact inv_applyReset _
  · exact inv_of_registers_eq h rfl rfl rfl
  · refine runWord_keeps_inv ?_ hw
    exact inv_of_registers_eq h rfl rfl rfl

/-! ### The invariant of the signal level -/

/-- A loop runs for a key that is not empty. -/
theorem KEYLEN_ne_zero_of_loopRuns {w : Word} {s : State} (h : loopRuns w s = true) : s.KEYLEN ≠ 0#9 := by
  have hboth : isKsaWord w = true ∧ s.KEYLEN ≠ 0#9 := by simpa [loopRuns] using h
  exact hboth.2

/-- Outside `EXEC` the invariant of the signal level is that of the block. -/
theorem clockInv_of_not_exec {s : State} (h : Inv s) (hp : ∀ p, s.PHASE ≠ .exec p) : ClockInv s :=
  ⟨h, fun p e _ => absurd e (hp p)⟩

/-- In `EXEC` the invariant of the signal level asks for the loop's state only while the loop runs. -/
theorem clockInv_of_exec {s : State} {p : InProgress} (hp : s.PHASE = .exec p) (h : Inv s)
    (hloop : loopRuns p.cmd s = true → p.ksaCount ≤ 256 ∧ (s.S, s.j) = ksaLoop (cyclicKey s) p.ksaCount) :
    ClockInv s := by
  refine ⟨h, fun q hq hrun => ?_⟩
  obtain rfl : p = q := Phase.exec.inj (hp.symm.trans hq)
  exact hloop hrun

/-- An array that the loop has made is a permutation (41_ksa.md R128). -/
theorem isPermutation_of_loop_state {S : Table} {j : Byte} {E : Nat → Byte} {n : Nat} (h : (S, j) = ksaLoop E n) :
    IsPermutation S := by
  have hS : S = (ksaLoop E n).1 := congrArg Prod.fst h
  exact hS ▸ isPermutation_ksaLoop E n

/-- A permutation may replace the array of any block, keyed or not: as the loop of a second `KSA` does. -/
theorem inv_of_isPermutation {s t : State} (h : Inv s) (hL : t.KEYLEN = s.KEYLEN) (hR : t.READY = s.READY)
    (hS : IsPermutation t.S) : Inv t :=
  ⟨hL ▸ h.keylen_le, hL ▸ hR ▸ h.keyed_has_key, fun _ => hS⟩

theorem clockInv_tick {s : State} (h : ClockInv s) : ClockInv (tick s) :=
  ⟨inv_of_registers_eq h.inv rfl rfl rfl, h.loop_state⟩

/-- Acceptance starts a loop that runs at its iteration 0, from the identity and j = 0 (41_ksa.md R129). -/
theorem clockInv_acceptWord (w : Word) {s : State} (h : Inv s) : ClockInv (acceptWord w s) := by
  cases hrun : loopRuns w s with
  | true =>
    have ha : acceptWord w s = enterPhase (.exec { cmd := w, cycles := 0, ksaCount := 0 }) (ksaBegin s) := by
      rw [acceptWord, if_pos hrun]
    rw [ha]
    exact clockInv_of_exec rfl (inv_of_isPermutation h rfl rfl isPermutation_identityTable)
      fun _ => ⟨Nat.zero_le _, rfl⟩
  | false =>
    have ha : acceptWord w s = enterPhase (.exec { cmd := w, cycles := 0, ksaCount := 0 }) s := by
      rw [acceptWord, if_neg (by simp [hrun])]
    rw [ha]
    exact clockInv_of_exec rfl (inv_of_registers_eq h rfl rfl rfl) fun hw => absurd (hrun.symm.trans hw) (by decide)

/-- A cycle of `EXEC` carries a loop that runs on from where its count says it is. -/
theorem clockInv_progressWord (T : Timing) {p : InProgress} {s : State} (h : ClockInv s) (hp : s.PHASE = .exec p) :
    ClockInv (progressWord T p s) := by
  obtain ⟨hmost, hnone⟩ := iterationsNow_bounds T p s
  cases hrun : loopRuns p.cmd s with
  | true =>
    obtain ⟨hc, hl⟩ := h.loop_state p hp hrun
    have hloop := ksaMicroSteps_loop (iterationsNow T p s) p.ksaCount s hl
    have hkey : cyclicKey (progressWord T p s) = cyclicKey s :=
      cyclicKey_congr (by simp [progressWord]) (by simp [progressWord])
    refine clockInv_of_exec rfl ?_ fun _ => ⟨?_, hkey ▸ hloop⟩
    · exact inv_of_isPermutation h.inv (by simp [progressWord]) (by simp [progressWord])
        (isPermutation_of_loop_state hloop)
    · show p.ksaCount + iterationsNow T p s ≤ 256
      omega
  | false =>
    rw [progressWord, hnone hrun]
    exact clockInv_of_exec rfl (inv_of_registers_eq h.inv rfl rfl rfl)
      fun hw => absurd (hrun.symm.trans hw) (by decide)

/-- The end of `KSA` leaves a keyed block, with the key and the array it finds. -/
theorem inv_ksaEnd {s : State} (h : Inv s) (hk : s.KEYLEN ≠ 0#9) (hS : IsPermutation s.S) : Inv (ksaEnd s) :=
  ⟨h.keylen_le, fun _ => one_le_KEYLEN hk, fun _ => hS⟩

/-- The last cycle of `EXEC` keeps the invariant: the rest of the loop is done, or the word runs. -/
theorem completeWord_keeps_clockInv {p : InProgress} {s t : State} (h : ClockInv s) (hp : s.PHASE = .exec p)
    (ht : completeWord p s = .next t) : ClockInv t := by
  cases hrun : loopRuns p.cmd s with
  | true =>
    rw [completeWord, if_pos hrun] at ht
    obtain rfl := Host.Outcome.next.inj ht
    have hperm := isPermutation_of_loop_state
      (ksaMicroSteps_loop (256 - p.ksaCount) p.ksaCount s (h.loop_state p hp hrun).2)
    have hinv := inv_of_isPermutation h.inv (ksaMicroSteps_KEYLEN _ _ s) (ksaMicroSteps_READY _ _ s) hperm
    refine clockInv_of_not_exec (inv_ksaEnd hinv ?_ hperm) (by simp)
    simpa using KEYLEN_ne_zero_of_loopRuns hrun
  | false =>
    rw [completeWord, if_neg (by simp [hrun])] at ht
    obtain ⟨st, d, u, e, -⟩ := runWord_effect ht
    exact clockInv_of_not_exec (runWord_keeps_inv h.inv ht) (by simp [e])

/-- Settles O25: an edge is a reset or first counts itself, and then accepts a word, carries one on, completes it, has
its response taken, or waits. -/
theorem everyClockEdgeKeepsTheInvariant : Obligations.EveryClockEdgeKeepsTheInvariant := by
  intro T x s t h ht
  have htick := clockInv_tick h
  rcases edge_cases T x s with ⟨-, he⟩ | ⟨-, -, -, -, he⟩ | ⟨-, -, he⟩ | ⟨p, -, hp, -, he⟩ | ⟨p, -, hp, -, he⟩ |
    ⟨-, -, -, he⟩ | ⟨-, -, -, he⟩ <;> rw [he] at ht
  · obtain rfl := Host.Outcome.next.inj ht
    exact clockInv_of_not_exec (inv_applyReset s) (by simp)
  · obtain rfl := Host.Outcome.next.inj ht
    exact clockInv_acceptWord x.cmdWord htick.inv
  · obtain rfl := Host.Outcome.next.inj ht
    exact htick
  · exact completeWord_keeps_clockInv htick hp ht
  · obtain rfl := Host.Outcome.next.inj ht
    exact clockInv_progressWord T htick hp
  · obtain rfl := Host.Outcome.next.inj ht
    exact clockInv_of_not_exec (inv_of_registers_eq htick.inv rfl rfl rfl) (by simp)
  · obtain rfl := Host.Outcome.next.inj ht
    exact htick

/-- Settles O23: at reset the block is not keyed, its key is empty, and no command is in progress. -/
theorem resetMeetsTheInvariant : Obligations.ResetMeetsTheInvariant := by
  have h : Inv State.reset := inv_of_not_keyed (Nat.zero_le _) rfl
  exact ⟨h, clockInv_of_not_exec h fun _ => Phase.noConfusion⟩

/-! ### What no response can show -/

theorem lookAlike_respond (st : Status) (d : Byte) {s t : State} (h : LookAlike s t) :
    LookAlike (respond st d s) (respond st d t) :=
  ⟨h.ready_eq, h.keylen_eq, h.key_eq, h.generator_eq⟩

theorem lookAlike_takeResponse {s t : State} (h : LookAlike s t) : LookAlike (takeResponse s) (takeResponse t) :=
  ⟨h.ready_eq, h.keylen_eq, h.key_eq, h.generator_eq⟩

/-- With no key and no schedule, everything is out of sight. -/
theorem lookAlike_cleared (s t : State) :
    LookAlike { s with KEYLEN := 0#9, READY := false } { t with KEYLEN := 0#9, READY := false } :=
  ⟨rfl, rfl, fun _ hn => absurd hn (Nat.not_lt_zero _), fun hr => absurd hr Bool.false_ne_true⟩

/-- A key byte that is appended is the next one in use, the same for both. -/
theorem lookAlike_appendKeyByte (b : Byte) {s t : State} (h : LookAlike s t) :
    LookAlike (appendKeyByte b s) (appendKeyByte b t) := by
  obtain ⟨hready, hlen, hkey, hgen⟩ := h
  unfold appendKeyByte
  rw [← hlen]
  split
  · refine ⟨hready, rfl, fun n hn => ?_, hgen⟩
    simp only [readEntry_writeEntry]
    split
    · rfl
    · have hlt : n.toNat < s.KEYLEN.toNat := by
        have hne : ¬ n = s.KEYLEN.setWidth 8 := ‹_›
        bv_omega
      exact hkey n hlt
  · exact ⟨hready, hlen, hkey, hgen⟩

/-- The cyclic key reads the key bytes in use and no other (41_ksa.md R121). -/
theorem cyclicKey_lookAlike {s t : State} (h : LookAlike s t) (hk : s.KEYLEN ≠ 0#9) : cyclicKey s = cyclicKey t := by
  funext n
  rw [cyclicKey, cyclicKey, ← h.keylen_eq]
  refine h.key_eq _ ?_
  calc (BitVec.ofNat 8 (n % s.KEYLEN.toNat)).toNat
      ≤ n % s.KEYLEN.toNat := by rw [BitVec.toNat_ofNat]; exact Nat.mod_le _ _
    _ < s.KEYLEN.toNat := Nat.mod_lt _ (one_le_KEYLEN hk)

theorem lookAlike_scheduleKey {s t : State} (h : LookAlike s t) (hk : s.KEYLEN ≠ 0#9) :
    LookAlike (scheduleKey s) (scheduleKey t) :=
  ⟨rfl, h.keylen_eq, h.key_eq, fun _ => ⟨by simp [cyclicKey_lookAlike h hk], rfl, rfl⟩⟩

/-- Look-alike keyed blocks take the same PRGA step, since the step reads the generator alone. -/
theorem prgaOf_lookAlike {s t : State} (h : LookAlike s t) (hr : s.READY = true) : prgaOf s = prgaOf t := by
  obtain ⟨hS, hi, hj⟩ := h.generator_eq hr
  simp [prgaOf, hS, hi, hj]

theorem lookAlike_advanceKeystream {s t : State} (h : LookAlike s t) (hr : s.READY = true) :
    LookAlike (advanceKeystream s) (advanceKeystream t) :=
  ⟨h.ready_eq, h.keylen_eq, h.key_eq, fun _ => by simp [prgaOf_lookAlike h hr]⟩

theorem statusByte_lookAlike {s t : State} (h : LookAlike s t) : statusByte s = statusByte t := by
  simp [statusByte, kempty, kfull, h.keylen_eq, h.ready_eq]

theorem klenByte_lookAlike {s t : State} (h : LookAlike s t) : klenByte s = klenByte t := by
  simp [klenByte, h.keylen_eq]

/-- Two outcomes that a host cannot tell apart: one response, and look-alike states behind it. -/
def SameAnswer (a b : Host.Outcome State Fault Refusal) : Prop :=
  ∃ (st : Status) (d : Byte) (u v : State), a = .next (respond st d u) ∧ b = .next (respond st d v) ∧ LookAlike u v

/-- A command on look-alike states draws the same response. -/
theorem exec_lookAlike (i : Instr) {s t : State} (h : LookAlike s t) : SameAnswer (exec i s) (exec i t) := by
  cases i with
  | nop => exact ⟨_, _, s, t, rfl, rfl, h⟩
  | kclr => exact ⟨_, _, _, _, rfl, rfl, lookAlike_cleared s t⟩
  | kpush b =>
    rw [exec, exec, execKpush, execKpush, ← h.ready_eq]
    split
    · exact ⟨_, _, s, t, rfl, rfl, h⟩
    · exact ⟨_, _, _, _, rfl, rfl, lookAlike_appendKeyByte b h⟩
  | ksa =>
    rw [exec, exec, execKsa, execKsa, ← h.keylen_eq]
    split
    · exact ⟨_, _, s, t, rfl, rfl, h⟩
    · exact ⟨_, _, _, _, rfl, rfl, lookAlike_scheduleKey h ‹_›⟩
  | gen =>
    rw [exec, exec, execGen, execGen, ← h.ready_eq]
    split
    · rw [← prgaOf_lookAlike h ‹_›]
      exact ⟨_, _, _, _, rfl, rfl, lookAlike_advanceKeystream h ‹_›⟩
    · exact ⟨_, _, s, t, rfl, rfl, h⟩
  | xor d =>
    rw [exec, exec, execXor, execXor, ← h.ready_eq]
    split
    · rw [← prgaOf_lookAlike h ‹_›]
      exact ⟨_, _, _, _, rfl, rfl, lookAlike_advanceKeystream h ‹_›⟩
    · exact ⟨_, _, s, t, rfl, rfl, h⟩
  | rdstat =>
    rw [exec, exec, execRdstat, execRdstat, ← statusByte_lookAlike h]
    exact ⟨_, _, s, t, rfl, rfl, h⟩
  | rdklen =>
    rw [exec, exec, execRdklen, execRdklen, ← klenByte_lookAlike h]
    exact ⟨_, _, s, t, rfl, rfl, h⟩

/-- The same for a word, legal or not. -/
theorem runWord_lookAlike (w : Word) {s t : State} (h : LookAlike s t) : SameAnswer (runWord w s) (runWord w t) := by
  unfold runWord
  cases decode w with
  | command i => exact exec_lookAlike i h
  | illegal why => exact ⟨_, _, s, t, rfl, rfl, h⟩

/-- Settles O29, by induction on the words: each draws the same response and leaves look-alike states. -/
theorem hiddenContentsReachNoResponse : Obligations.HiddenContentsReachNoResponse := by
  intro ws
  induction ws with
  | nil => exact fun s t _ _ h => ⟨[], s, t, rfl, rfl, h⟩
  | cons w ws ih =>
    intro s t hs ht h
    obtain ⟨st, d, u, v, hu, hv, huv⟩ := runWord_lookAlike w (lookAlike_takeResponse h)
    obtain ⟨rs, s', t', hrs, hrt, h'⟩ :=
      ih (respond st d u) (respond st d v) (.inr rfl) (.inr rfl) (lookAlike_respond st d huv)
    refine ⟨responseWord st d :: rs, s', t', ?_, ?_, h'⟩
    · rw [runWords_cons w ws s _ hs hu, hrs]; rfl
    · rw [runWords_cons w ws t _ ht hv, hrt]; rfl

/-! ### Who writes each register -/

/-- A word that finds the block keyed and leaves it so writes no part of the key. -/
theorem runWord_keeps_key {w : Word} {s t : State} (h : runWord w s = .next t) (hs : s.READY = true)
    (ht : t.READY = true) : t.KEYLEN = s.KEYLEN ∧ t.K = s.K := by
  obtain ⟨st, d, u, rfl, hu⟩ := runWord_effect h
  rcases hu with rfl | rfl | ⟨-, hr⟩ | ⟨-, rfl⟩ | ⟨-, rfl⟩
  · exact ⟨rfl, rfl⟩
  · exact absurd ht (by simp)
  · exact absurd (hr.symm.trans hs) (by decide)
  · exact ⟨rfl, rfl⟩
  · exact ⟨rfl, rfl⟩

/-- Settles O26: a reset ends the session, idling writes nothing, and a word that keeps the block keyed keeps the key. -/
theorem keyIsImmutableWhileKeyed : Obligations.KeyIsImmutableWhileKeyed := by
  intro s t h hs ht
  rcases step_effect h with ⟨host, rfl⟩ | rfl | ⟨w, phase, host, hw⟩
  · exact absurd ht (by simp)
  · exact ⟨rfl, fun _ => rfl⟩
  · obtain ⟨hL, hK⟩ := runWord_keeps_key hw hs ht
    exact ⟨hL, fun n => by rw [hK]⟩

/-- Settles O27, over the five states a command can leave. -/
theorem eachRegisterIsWrittenOnlyByItsCommands : Obligations.EachRegisterIsWrittenOnlyByItsCommands := by
  intro i s t h
  obtain ⟨st, d, u, hx, hu⟩ := exec_cases i s
  obtain rfl : respond st d u = t := Host.Outcome.next.inj (hx.symm.trans h)
  rcases hu with rfl | ⟨rfl, rfl⟩ | ⟨⟨b, rfl, rfl⟩, -⟩ | ⟨rfl, -, rfl⟩ | ⟨hi, -, rfl⟩
  · simp
  · simp
  · rcases appendKeyByte_KEYLEN_cases b s with e | ⟨-, e⟩ <;> simp [e]
  · simp
  · rcases hi with rfl | ⟨x, rfl⟩ <;> simp

/-! ### STATUS -/

/-- The response of `RDSTAT`, by the three bits it shows (10_state.md R30). -/
theorem responseWord_statusByte (s : State) :
    responseWord .ok (statusByte s) = BitVec.ofNat 16
      ((if s.READY then 1 else 0) + (if kfull s then 2 else 0) + (if kempty s then 4 else 0)) := by
  unfold statusByte
  cases s.READY <;> cases kfull s <;> cases kempty s <;> decide

theorem kfull_iff (s : State) : kfull s = true ↔ s.KEYLEN.toNat = 256 := by
  simp [kfull, ← BitVec.toNat_inj]

theorem kempty_iff (s : State) : kempty s = true ↔ s.KEYLEN.toNat = 0 := by
  simp [kempty, ← BitVec.toNat_inj]

/-- Settles O28: the key is empty, full, or neither, and a keyed block's key is not empty. -/
theorem statusTakesFiveValues : Obligations.StatusTakesFiveValues := by
  intro s h
  obtain ⟨hle, hkeyed, -⟩ := h
  refine ⟨_, rfl, ?_⟩
  rw [respond_RSP, responseWord_statusByte]
  simp only [kfull_iff, kempty_iff]
  cases hr : s.READY with
  | true =>
    have hnz : s.KEYLEN.toNat ≠ 0 := Nat.one_le_iff_ne_zero.1 (hkeyed hr)
    by_cases hf : s.KEYLEN.toNat = 256
    · exact .inr (.inr (.inl ⟨rfl, hf, by simp [hf]⟩))
    · exact .inl ⟨rfl, by omega, by simp [hf, hnz]⟩
  | false =>
    by_cases hf : s.KEYLEN.toNat = 256
    · exact .inr (.inl ⟨rfl, hf, by simp [hf]⟩)
    · by_cases hz : s.KEYLEN.toNat = 0
      · exact .inr (.inr (.inr (.inl ⟨rfl, hz, by simp [hz]⟩)))
      · exact .inr (.inr (.inr (.inr ⟨rfl, by omega, by omega, by simp [hf, hz]⟩)))

/-! ### A command in progress, idling, and the state after reset -/

/-- A command in progress is no command boundary (20_memory.md R55). -/
theorem not_atBoundary_of_exec {s : State} {p : InProgress} (hp : s.PHASE = .exec p) : ¬ AtBoundary s := by
  simp [AtBoundary, hp]

/-- Settles O18: of the four things a step can be, only one fits each case. -/
theorem stepFinishesOrIdles : Obligations.StepFinishesOrIdles := by
  constructor
  · intro s p i hp hreset hi
    rcases step_cases s with ⟨rest, hh, -⟩ | ⟨q, hq, hs⟩ | ⟨w, rest, -, hb, -⟩ | ⟨-, hb, -⟩
    · exact absurd hh (hreset rest)
    · obtain rfl : p = q := Phase.exec.inj (hp.symm.trans hq)
      rw [hs, runWord, hi]
    · exact absurd hb (not_atBoundary_of_exec hp)
    · exact absurd hb (not_atBoundary_of_exec hp)
  · intro s hb hh
    rcases step_cases s with ⟨rest, hh', -⟩ | ⟨q, hq, -⟩ | ⟨w, rest, hh', -, -⟩ | ⟨-, -, hs⟩
    · exact absurd (hh.symm.trans hh') (by simp)
    · exact absurd hb (not_atBoundary_of_exec hq)
    · exact absurd (hh.symm.trans hh') (by simp)
    · exact hs

/-- Settles O20: the registers are those of `State.reset`, and `cmd_ready` waits by whichever count the timing has. -/
theorem resetStateIsAsSpecified : Obligations.ResetStateIsAsSpecified := by
  refine ⟨rfl, rfl, rfl, rfl, rfl, by decide, by decide, rfl, fun T n => ?_⟩
  cases hc : T.resetCount <;> simp [cmdReady, Timing.resetWait, hc, State.reset, Phase.isIdle]

end Sys2Proof.Proofs
end

section
/-! PROOFS. What a step does with the word the host presents (20_memory.md R58), and the instances of a system
(20_memory.md R62). -/

namespace Sys2Proof.Proofs

open Sys2Proof.Machine Sys2Proof.Safety Sys2Proof.Laws

/-! ### A word presented at a command boundary -/

/-- At a command boundary the step takes a response that waits, and runs the word the host presents. -/
theorem step_of_command {s : State} {w : Word} {rest : List HostEvent} (hb : AtBoundary s)
    (hh : s.host = .command w :: rest) : step s = runWord w (takeResponse { s with host := rest }) := by
  rcases step_cases s with ⟨rest', hh', -⟩ | ⟨p, hp, -⟩ | ⟨w', rest', hh', -, hs⟩ | ⟨hh', -, -⟩
  · exact absurd (hh.symm.trans hh') (by simp)
  · exact absurd hb (not_atBoundary_of_exec hp)
  · obtain ⟨rfl, rfl⟩ : w = w' ∧ rest = rest' := by simpa using hh.symm.trans hh'
    exact hs
  · exact absurd (hh.symm.trans hh') (by simp)

/-- A word that decodes to a command runs as that command. -/
theorem runWord_of_command {w : Word} {i : Instr} (hi : decode w = .command i) (s : State) :
    runWord w s = exec i s := by
  rw [runWord, hi]

/-- Settles O16: the word presented is the one that runs, and it runs as its command. -/
theorem stepRunsTheDecodedCommand : Obligations.StepRunsTheDecodedCommand :=
  fun _ _ _ _ hb hh hi => (step_of_command hb hh).trans (runWord_of_command hi _)

/-! ### Instances -/

/-- A system after a step of instance `n` is the system before it with the state of `n` stepped. -/
theorem stepInstance_eq_some_iff {n : Nat} {sys a : Instances} :
    stepInstance n sys = some a ↔ ∃ s t, sys[n]? = some s ∧ step s = .next t ∧ a = sys.set n t := by
  unfold stepInstance
  cases sys[n]? with
  | none => simp
  | some s =>
    cases h : step s with
    | next t => simp [h, eq_comm]
    | fault r => cases r
    | refused r => simp [h]

/-- A step of one instance leaves every other instance as it was (60_exceptions.md R216). -/
theorem getElem?_of_stepInstance {m n : Nat} {sys a : Instances} (hne : m ≠ n) (h : stepInstance m sys = some a) :
    a[n]? = sys[n]? := by
  obtain ⟨s, t, -, -, rfl⟩ := stepInstance_eq_some_iff.1 h
  exact List.getElem?_set_ne hne

/-- Settles O52: each instance finds its own state as the other's step left it, and the two states written stand at
different places of the list. -/
theorem instancesShareNothing : Obligations.InstancesShareNothing := by
  intro sys a b m n hne ha hb
  have hn : a[n]? = sys[n]? := getElem?_of_stepInstance hne ha
  have hm : b[m]? = sys[m]? := getElem?_of_stepInstance hne.symm hb
  obtain ⟨s, s', hs, hstep, rfl⟩ := stepInstance_eq_some_iff.1 ha
  obtain ⟨t, t', ht, htstep, rfl⟩ := stepInstance_eq_some_iff.1 hb
  refine ⟨hn, (sys.set m s').set n t', ?_, ?_⟩
  · exact stepInstance_eq_some_iff.2 ⟨t, t', hn.trans ht, htstep, rfl⟩
  · exact stepInstance_eq_some_iff.2 ⟨s, s', hm.trans hs, hstep, List.set_comm _ _ hne⟩

end Sys2Proof.Proofs
end

section
/-! PROOFS. The command word and the response word as their fields (30_encoding.md R77, R80), decoding and encoding
(R82 to R84), the handshake between commands (R73, R74; 70_reset_and_hazards.md R242), and the example lines of the
assembler (R85). -/

namespace Sys2Proof.Proofs

open Sys2Proof.Machine Sys2Proof.Safety Sys2Proof.Laws

/-! ### A word and its three fields -/

/-- The word whose fields are `f`: what `fieldsOf` cuts, put together (30_encoding.md R77). -/
def wordOf (f : CmdFields) : Word := (f.opc ++ (f.rsv ++ f.imm : BitVec 12) : BitVec 16)

@[simp] theorem fieldsOf_wordOf (f : CmdFields) : fieldsOf (wordOf f) = f := by
  obtain ⟨opc, rsv, imm⟩ := f
  have hrsv : (opc ++ (rsv ++ imm : BitVec 12) : BitVec 16).extractLsb' 8 4 = rsv := by
    rw [BitVec.extractLsb'_append_eq_of_add_le (by decide), BitVec.extractLsb'_append_eq_left]
  have himm : (opc ++ (rsv ++ imm : BitVec 12) : BitVec 16).extractLsb' 0 8 = imm := by
    rw [BitVec.extractLsb'_append_eq_of_add_le (by decide), BitVec.extractLsb'_append_eq_right]
  simp only [fieldsOf, wordOf, BitVec.extractLsb'_append_eq_left, hrsv, himm]

@[simp] theorem wordOf_fieldsOf (w : Word) : wordOf (fieldsOf w) = w := by
  unfold wordOf fieldsOf
  rw [BitVec.extractLsb'_append_extractLsb'_eq_extractLsb' (by decide),
    BitVec.extractLsb'_append_extractLsb'_eq_extractLsb' (by decide)]
  exact BitVec.extractLsb'_eq_self

theorem eq_wordOf_iff {w : Word} {f : CmdFields} : w = wordOf f ↔ fieldsOf w = f :=
  ⟨fun h => h ▸ fieldsOf_wordOf f, fun h => h ▸ (wordOf_fieldsOf w).symm⟩

theorem toNat_opc_fieldsOf (w : Word) : (fieldsOf w).opc.toNat = w.toNat / 4096 := by
  have hlt : w.toNat / 4096 < 16 := Nat.div_lt_of_lt_mul w.isLt
  simp [fieldsOf, BitVec.extractLsb'_toNat, Nat.shiftRight_eq_div_pow, Nat.mod_eq_of_lt hlt]

theorem toNat_rsv_fieldsOf (w : Word) : (fieldsOf w).rsv.toNat = w.toNat / 256 % 16 := by
  simp [fieldsOf, BitVec.extractLsb'_toNat, Nat.shiftRight_eq_div_pow]

theorem toNat_imm_fieldsOf (w : Word) : (fieldsOf w).imm.toNat = w.toNat % 256 := by
  simp [fieldsOf, BitVec.extractLsb'_toNat]

/-- Settles O5: a response word is put together as a command word is. -/
theorem responseWordHasThreeFields : Obligations.ResponseWordHasThreeFields := by
  refine ⟨fun st d => ?_, rfl, rfl, rfl, rfl, rfl⟩
  have h : fieldsOf (responseWord st d) = ⟨st.code, 0#4, d⟩ := fieldsOf_wordOf ⟨st.code, 0#4, d⟩
  exact ⟨congrArg CmdFields.opc h, congrArg CmdFields.rsv h, congrArg CmdFields.imm h⟩

/-! ### Decoding and encoding -/

/-- The operation code of a command (30_encoding.md R82). -/
def opcodeOf : Instr → BitVec 4
  | .nop => 0x0#4
  | .kclr => 0x1#4
  | .kpush _ => 0x2#4
  | .ksa => 0x3#4
  | .gen => 0x4#4
  | .xor _ => 0x5#4
  | .rdstat => 0x6#4
  | .rdklen => 0x7#4

/-- The fields of a command's word: a command without an operand has `IMM8` = 0x00 (30_encoding.md R77, R82). -/
def commandFields (i : Instr) : CmdFields := { opc := opcodeOf i, rsv := 0#4, imm := i.operand.getD 0#8 }

/-- An operation code over an operand, as `encode` writes them, is the word of those fields. -/
theorem shiftLeft_or_setWidth_eq_wordOf (opc : BitVec 4) (b : Byte) :
    opc.setWidth 16 <<< 12 ||| b.setWidth 16 = wordOf { opc := opc, rsv := 0#4, imm := b } := by
  unfold wordOf
  rw [BitVec.append_def, BitVec.append_def]
  simp [BitVec.shiftLeftZeroExtend_eq]

theorem encode_eq_wordOf (i : Instr) : encode i = wordOf (commandFields i) := by
  cases i with
  | kpush b => exact shiftLeft_or_setWidth_eq_wordOf 0x2#4 b
  | xor d => exact shiftLeft_or_setWidth_eq_wordOf 0x5#4 d
  | nop | kclr | ksa | gen | rdstat | rdklen => decide

theorem decode_of_fieldsOf {w : Word} {i : Instr} (h : fieldsOf w = commandFields i) : decode w = .command i := by
  unfold decode
  rw [h]
  cases i <;> rfl

/-- The commands without an operand, by operation code. -/
theorem opcodeOf_of_decodeNoOperand {opc : BitVec 4} {i : Instr} (h : decodeNoOperand opc = .command i) :
    opcodeOf i = opc ∧ i.operand = none := by
  unfold decodeNoOperand at h
  split_ifs at h <;> cases h <;> exact ⟨Eq.symm ‹_›, rfl⟩

theorem fieldsOf_of_decode {w : Word} {i : Instr} (h : decode w = .command i) : fieldsOf w = commandFields i := by
  unfold decode at h
  generalize fieldsOf w = f at h ⊢
  obtain ⟨opc, rsv, imm⟩ := f
  dsimp only at h
  split_ifs at h with hrsv hpush hxor hhigh himm
  · obtain rfl := hpush
    cases h
    rw [not_not.1 hrsv]
    rfl
  · obtain rfl := hxor
    cases h
    rw [not_not.1 hrsv]
    rfl
  · obtain ⟨hopc, hnone⟩ := opcodeOf_of_decodeNoOperand h
    rw [commandFields, hopc, hnone, not_not.1 hrsv, not_not.1 himm]
    rfl

theorem decode_eq_command_iff (w : Word) (i : Instr) : decode w = .command i ↔ w = encode i := by
  rw [encode_eq_wordOf, eq_wordOf_iff]
  exact ⟨fieldsOf_of_decode, decode_of_fieldsOf⟩

@[simp] theorem decode_encode (i : Instr) : decode (encode i) = .command i := (decode_eq_command_iff _ i).2 rfl

theorem encode_injective : Function.Injective encode := fun i i' h =>
  Decoded.command.inj ((decode_encode i).symm.trans (h ▸ decode_encode i'))

/-- Settles O1: a word decodes to a command, and is its encoding, exactly when its fields are the command's. -/
theorem decodeAndEncodeAreInverse : Obligations.DecodeAndEncodeAreInverse := decode_eq_command_iff

/-- Settles O4: the legal words are encodings, each illegal one shows one cause. -/
theorem specWordsDecodeAsListed : Obligations.SpecWordsDecodeAsListed :=
  ⟨decode_encode .nop, decode_encode .kclr, decode_encode (.kpush 0xFF#8), decode_encode .ksa, decode_encode .gen,
    decode_encode (.xor 0x80#8), decode_encode .rdstat, decode_encode .rdklen, by decide, by decide, by decide⟩

/-! ### The opcode map -/

theorem fieldsOf_and (w v : Word) :
    fieldsOf (w &&& v) =
      { opc := (fieldsOf w).opc &&& (fieldsOf v).opc, rsv := (fieldsOf w).rsv &&& (fieldsOf v).rsv,
        imm := (fieldsOf w).imm &&& (fieldsOf v).imm } := by
  simp only [fieldsOf, BitVec.extractLsb'_and]

/-- The mask of a row that fixes every bit lets its pattern alone through. -/
theorem and_fullMask_eq_iff {w p : Word} : w &&& 0xFFFF#16 = p ↔ w = p := by
  rw [show 0xFFFF#16 = BitVec.allOnes 16 from rfl, BitVec.and_allOnes]

/-- The mask of a row that leaves `IMM8` free lets every operand through. -/
theorem and_operandMask_eq_iff {w : Word} {opc : BitVec 4} :
    w &&& 0xFF00#16 = wordOf { opc := opc, rsv := 0#4, imm := 0#8 } ↔
      ∃ b : Byte, w = wordOf { opc := opc, rsv := 0#4, imm := b } := by
  have hmask : fieldsOf 0xFF00#16 = { opc := BitVec.allOnes 4, rsv := BitVec.allOnes 4, imm := 0#8 } := by decide
  simp only [eq_wordOf_iff, fieldsOf_and, hmask, BitVec.and_allOnes, BitVec.and_zero]
  obtain ⟨opc', rsv, imm⟩ := fieldsOf w
  simp

theorem exists_instr_iff {p : Instr → Prop} : (∃ i, p i) ↔
    p .nop ∨ p .kclr ∨ (∃ b, p (.kpush b)) ∨ p .ksa ∨ p .gen ∨ (∃ d, p (.xor d)) ∨ p .rdstat ∨ p .rdklen := by
  constructor
  · rintro ⟨i, hi⟩
    cases i <;> grind
  · rintro (h | h | ⟨_, h⟩ | h | h | ⟨_, h⟩ | h | h) <;> exact ⟨_, h⟩

theorem eq_of_mnemonic_eq : ∀ r ∈ opcodeMap, ∀ r' ∈ opcodeMap, r.mnemonic = r'.mnemonic → r = r' := by decide

theorem exists_row_of_mnemonic (i : Instr) : ∃ r ∈ opcodeMap, i.mnemonic = r.mnemonic := by
  cases i <;> simp [opcodeMap, Instr.mnemonic]

/-- A row selects the encodings of its mnemonic's commands, and no other word (30_encoding.md R82). -/
theorem selects_iff {r : OpcodeRow} (hr : r ∈ opcodeMap) (w : Word) :
    r.selects w = true ↔ ∃ i : Instr, i.mnemonic = r.mnemonic ∧ w = encode i := by
  simp only [opcodeMap, List.mem_cons, List.not_mem_nil, or_false] at hr
  rcases hr with rfl | rfl | rfl | rfl | rfl | rfl | rfl | rfl
  all_goals
    simp only [OpcodeRow.selects, beq_iff_eq, exists_instr_iff, Instr.mnemonic, String.reduceEq, false_and, true_and,
      exists_false, or_false, false_or, encode_eq_wordOf]
  exacts [and_fullMask_eq_iff, and_fullMask_eq_iff, and_operandMask_eq_iff (opc := 0x2#4), and_fullMask_eq_iff,
    and_fullMask_eq_iff, and_operandMask_eq_iff (opc := 0x5#4), and_fullMask_eq_iff, and_fullMask_eq_iff]

/-- Settles O2: each row selects the encodings of its mnemonic's commands and no other word (`selects_iff`), and a word
encodes one command at most. -/
theorem decodeFollowsTheOpcodeMap : Obligations.DecodeFollowsTheOpcodeMap := by
  intro w
  refine ⟨fun r hr r' hr' h h' => ?_, fun i hi => ⟨?_, fun b hb => ?_⟩, fun r hr h => ?_⟩
  · obtain ⟨i, hi, hw⟩ := (selects_iff hr w).1 h
    obtain ⟨i', hi', hw'⟩ := (selects_iff hr' w).1 h'
    obtain rfl : i = i' := encode_injective (hw.symm.trans hw')
    exact eq_of_mnemonic_eq r hr r' hr' (hi.symm.trans hi')
  · obtain ⟨r, hr, hm⟩ := exists_row_of_mnemonic i
    exact ⟨r, hr, (selects_iff hr w).2 ⟨i, hm, (decode_eq_command_iff w i).1 hi⟩, hm.symm⟩
  · rw [← toNat_imm_fieldsOf, fieldsOf_of_decode hi, commandFields, hb, Option.getD_some]
  · obtain ⟨i, hm, hw⟩ := (selects_iff hr w).1 h
    exact ⟨i, (decode_eq_command_iff w i).2 hw, hm⟩

/-! ### Illegal words -/

/-- The operation codes 0x0 to 0x7. -/
theorem opcode_cases {opc : BitVec 4} (h : opc.toNat < 8) :
    opc = 0x0#4 ∨ opc = 0x1#4 ∨ opc = 0x2#4 ∨ opc = 0x3#4 ∨ opc = 0x4#4 ∨ opc = 0x5#4 ∨ opc = 0x6#4 ∨ opc = 0x7#4 := by
  revert opc
  decide

theorem wellFormed_commandFields (i : Instr) : (commandFields i).wellFormed = true := by
  cases i <;> rfl

/-- The three checks pass, on numbers (30_encoding.md R84). -/
theorem wellFormed_iff (f : CmdFields) : f.wellFormed = true ↔
    f.rsv.toNat = 0 ∧ f.opc.toNat < 8 ∧ (f.opc.toNat = 2 ∨ f.opc.toNat = 5 ∨ f.imm.toNat = 0) := by
  simp [CmdFields.wellFormed, CmdFields.reservedClear, CmdFields.opcodeDefined, CmdFields.operandClear,
    CmdFields.takesOperand, ← BitVec.toNat_inj, and_assoc, or_assoc]

/-- The fields that pass the three checks are those of the commands (30_encoding.md R84). -/
theorem wellFormed_iff_exists_command (f : CmdFields) : f.wellFormed = true ↔ ∃ i, f = commandFields i := by
  constructor
  · intro h
    obtain ⟨hrsv, hopc, himm⟩ := (wellFormed_iff f).1 h
    obtain ⟨opc, rsv, imm⟩ := f
    obtain rfl : rsv = 0#4 := BitVec.eq_of_toNat_eq hrsv
    rcases himm with hpush | hxor | hzero
    · obtain rfl : opc = 0x2#4 := BitVec.eq_of_toNat_eq hpush
      exact ⟨.kpush imm, rfl⟩
    · obtain rfl : opc = 0x5#4 := BitVec.eq_of_toNat_eq hxor
      exact ⟨.xor imm, rfl⟩
    · obtain rfl : imm = 0#8 := BitVec.eq_of_toNat_eq hzero
      rcases opcode_cases hopc with rfl | rfl | rfl | rfl | rfl | rfl | rfl | rfl
      exacts [⟨.nop, rfl⟩, ⟨.kclr, rfl⟩, ⟨.kpush 0#8, rfl⟩, ⟨.ksa, rfl⟩, ⟨.gen, rfl⟩, ⟨.xor 0#8, rfl⟩, ⟨.rdstat, rfl⟩,
        ⟨.rdklen, rfl⟩]
  · rintro ⟨i, rfl⟩
    exact wellFormed_commandFields i

/-- A word is illegal exactly when its fields fail one of the three checks (30_encoding.md R84). -/
theorem decode_illegal_iff (w : Word) : (∃ why, decode w = .illegal why) ↔ (fieldsOf w).wellFormed = false := by
  rw [← Bool.not_eq_true, wellFormed_iff_exists_command]
  cases h : decode w with
  | command i => simpa using ⟨i, fieldsOf_of_decode h⟩
  | illegal why =>
    have hnone : ¬ ∃ i, fieldsOf w = commandFields i := by
      rintro ⟨i, hi⟩
      exact Decoded.noConfusion (h.symm.trans (decode_of_fieldsOf hi))
    exact iff_of_true ⟨why, rfl⟩ hnone

theorem runWord_of_illegal {w : Word} {why : IllegalWord} (h : decode w = .illegal why) (s : State) :
    runWord w s = .next { s with PHASE := .resp, RSP := 0x1000#16 } := by
  rw [runWord, h]
  rfl

/-- Settles O3: a word is illegal when one of the three checks on its fields fails, and the checks are read on the
word's number. -/
theorem illegalWordsAreExactlyThree : Obligations.IllegalWordsAreExactlyThree := by
  refine fun w => ⟨?_, fun why s h => runWord_of_illegal h s, decode_eq_command_iff w .nop⟩
  rw [decode_illegal_iff, ← Bool.not_eq_true, wellFormed_iff, toNat_opc_fieldsOf, toNat_rsv_fieldsOf,
    toNat_imm_fieldsOf]
  omega

/-! ### A word placed for the next step -/

theorem decode_of_decodeTableWord {nbits w : Nat} {i : Instr} (h : decodeTableWord nbits w = some i) :
    decode (tableWord nbits w) = .command i := by
  unfold decodeTableWord at h
  cases hd : decode (tableWord nbits w) with
  | command c => rw [hd] at h; cases h; rfl
  | illegal why => rw [hd] at h; cases h

/-- `settle` writes the phase only, and leaves the block at a command boundary (log entry 5). -/
theorem settle_cases (s : State) : AtBoundary (settle s) ∧ takeResponse (settle s) = takeResponse s := by
  unfold settle
  cases hp : s.PHASE with
  | idle => exact ⟨.inl hp, rfl⟩
  | exec p => exact ⟨.inl rfl, rfl⟩
  | resp => exact ⟨.inr hp, rfl⟩

/-- Settles O19: the placed word is the next the host presents, at a command boundary. -/
theorem placedWordRunsNext : Obligations.PlacedWordRunsNext := by
  intro s nbits w i hi
  obtain ⟨hb, htake⟩ := settle_cases s
  have hstep : step (s.withFetchWord nbits w) = runWord (tableWord nbits w) (takeResponse (settle s)) :=
    step_of_command hb rfl
  rw [hstep, htake]
  exact runWord_of_command (decode_of_decodeTableWord hi) _

/-! ### The handshake -/

theorem isIdle_iff (p : Phase) : p.isIdle = true ↔ p = .idle := by
  cases p <;> simp [Phase.isIdle]

theorem cmdReady_iff (T : Timing) (rst : Bool) (s : State) :
    cmdReady T rst s = true ↔ s.PHASE = .idle ∧ rst = false ∧ T.resetWait ≤ s.sinceReset := by
  simp [cmdReady, isIdle_iff, and_assoc]

/-- Nothing is latched at an edge with `cmd_ready` = 0 (70_reset_and_hazards.md R245). -/
theorem edge_of_not_cmdReady {T : Timing} {x : PortsIn} {s : State} (h : cmdReady T x.rst s = false) (valid : Bool)
    (w : Word) : edge T { x with cmdValid := valid, cmdWord := w } s = edge T x s := by
  simp only [edge, h, Bool.and_false, Bool.false_eq_true, if_false]

/-- Settles O50: `cmd_ready` by either count, and an edge looks at the command inputs only when it is 1. -/
theorem nothingIsAcceptedUnlessReady : Obligations.NothingIsAcceptedUnlessReady := by
  refine fun T s x => ⟨?_, edge_of_not_cmdReady⟩
  rw [cmdReady_iff, Timing.resetWait]
  cases T.resetCount <;> rfl

@[simp] theorem atCycle_sinceReset (n : Nat) (p : Phase) (s : State) :
    (atCycle n p s).sinceReset = s.sinceReset + n := rfl

theorem atCycle_PHASE_tick (n : Nat) (s : State) : atCycle n s.PHASE (tick s) = atCycle (n + 1) s.PHASE s := by
  simp only [atCycle, tick, Nat.add_assoc, Nat.add_comm 1]

/-- Edges that each do no more than count leave everything else as it was. -/
theorem edges_of_tick {T : Timing} {s : State} {xs : List PortsIn}
    (h : ∀ n < xs.length, ∀ x ∈ xs, edge T x (atCycle n s.PHASE s) = .next (tick (atCycle n s.PHASE s))) :
    edges T xs s = .next (atCycle xs.length s.PHASE s) := by
  induction xs generalizing s with
  | nil => rfl
  | cons x xs ih =>
    have first : edge T x s = .next (tick s) := h 0 (Nat.zero_lt_succ _) x List.mem_cons_self
    have rest : edges T xs (tick s) = .next (atCycle xs.length s.PHASE (tick s)) := ih fun n hn y hy => by
      rw [tick_PHASE, atCycle_PHASE_tick]
      exact h (n + 1) (Nat.succ_lt_succ hn) y (List.mem_cons_of_mem x hy)
    simp only [edges, first, rest, atCycle_PHASE_tick, List.length_cons]

/-- A response that the host does not take stands (30_encoding.md R74). -/
theorem edge_holds_response {T : Timing} {x : PortsIn} {s : State} (hp : s.PHASE = .resp) (hr : x.rst = false)
    (hy : x.rspReady = false) : edge T x s = .next (tick s) := by
  simp [edge, hp, hr, hy]

theorem edge_takes_response {T : Timing} {x : PortsIn} {s : State} (hp : s.PHASE = .resp) (hr : x.rst = false)
    (hy : x.rspReady = true) : edge T x s = .next (takeResponse (tick s)) := by
  simp [edge, hp, hr, hy]

/-- Settles O49: each edge of the run only counts (`edge_holds_response`), the one after it takes the response. -/
theorem responseIsHeldUntilTaken : Obligations.ResponseIsHeldUntilTaken := by
  intro T xs x s hp hheld hr hy
  have hrun : edges T xs s = .next (atCycle xs.length s.PHASE s) := edges_of_tick fun n _ y hmem =>
    edge_holds_response hp (hheld y hmem).1 (hheld y hmem).2
  rw [hp] at hrun
  exact ⟨_, hrun, by rw [atCycle, ← hp], rfl, rfl, rfl, _, edge_takes_response rfl hr hy, rfl, rfl⟩

theorem edge_resets (T : Timing) {x : PortsIn} (hr : x.rst = true) (s : State) : edge T x s = .next (applyReset s) := by
  simp [edge, hr]

/-- Settles O54: the edges of the wait only count (`edge_waits`), and the count is what `cmd_ready` looks at. -/
theorem cmdReadyRisesAfterTheWait : Obligations.CmdReadyRisesAfterTheWait := by
  intro T x xs s hx hxs hle
  have hrun : edges T xs (applyReset s) = .next (atCycle xs.length .idle (applyReset s)) :=
    edges_of_tick fun n hn y hmem => edge_waits T y _ rfl (hxs y hmem) (by simpa using hn.trans_le hle)
  refine ⟨_, by rw [edges, edge_resets T hx]; exact hrun, rfl, rfl, rfl, rfl, ?_, fun h => ?_, fun h => ?_⟩
  · rw [Bool.eq_iff_iff, cmdReady_iff, decide_eq_true_iff, atCycle_sinceReset, applyReset_sinceReset, Nat.zero_add]
    exact ⟨fun ⟨_, _, hwait⟩ => le_antisymm hle hwait, fun h => ⟨rfl, rfl, h.ge⟩⟩
  · simp [Timing.resetWait, h]
  · simp [Timing.resetWait, h]

/-! ### The assembler -/

/-- Settles O53: the four lines, read. -/
theorem assemblerReadsTheExamples : Obligations.AssemblerReadsTheExamples := by
  unfold Obligations.AssemblerReadsTheExamples
  decide

end Sys2Proof.Proofs
end

section
/-! PROOFS. Key loading (40_key.md): what `KCLR` and `KPUSH` do (R100 to R102), what a run of `KEY` leaves in the key
buffer (R104), and that a key of more than 256 bytes leaves what its first 256 bytes leave (R103). -/

namespace Sys2Proof.Proofs

open Sys2Proof.Machine Sys2Proof.Safety Sys2Proof.Laws

/-! ### One command -/

theorem exec_kpush_of_not_keyed {s : State} (hr : s.READY = false) (b : Byte) :
    exec (.kpush b) s = .next (respond .ok 0x00#8 (appendKeyByte b s)) := by
  simp [exec, execKpush, hr]

theorem exec_kpush_of_keyed {s : State} (hr : s.READY = true) (b : Byte) :
    exec (.kpush b) s = .next (raiseError .keyLocked s) := by
  simp [exec, execKpush, hr]

theorem exec_gen_of_not_keyed {s : State} (hr : s.READY = false) : exec .gen s = .next (raiseError .notKeyed s) := by
  simp [exec, execGen, hr]

/-- The state change of `KCLR` (40_key.md R100). -/
def clearKey (s : State) : State := { s with KEYLEN := 0#9, READY := false }

@[simp] theorem clearKey_KEYLEN (s : State) : (clearKey s).KEYLEN = 0#9 := rfl
@[simp] theorem clearKey_READY (s : State) : (clearKey s).READY = false := rfl

theorem exec_kclr (s : State) : exec .kclr s = .next (respond .ok 0x00#8 (clearKey s)) := rfl

/-- What `RDSTAT` shows after a `KCLR`: `KEMPTY` alone (10_state.md R30). -/
theorem exec_rdstat_clearKey (s : State) :
    exec .rdstat (respond .ok 0x00#8 (clearKey s)) =
      .next { respond .ok 0x00#8 (clearKey s) with RSP := 0x0004#16 } := by
  have hw : responseWord .ok (statusByte (respond .ok 0x00#8 (clearKey s))) = 0x0004#16 := responseWord_statusByte _
  rw [exec, execRdstat, respond, hw]
  rfl

/-- Settles O7: of the state `KCLR` leaves, `GEN` reads that it is not keyed, `RDSTAT` that the key is empty, and
nothing else can be seen (`lookAlike_cleared`). -/
theorem kclrClearsTheKey : Obligations.KclrClearsTheKey := by
  refine ⟨rfl, ⟨.operandNotZero, by decide⟩, fun s => ?_⟩
  refine ⟨_, exec_kclr s, rfl, rfl, rfl, exec_gen_of_not_keyed rfl, exec_rdstat_clearKey s, fun s' t' h => ?_⟩
  obtain rfl : respond .ok 0x00#8 (clearKey s') = t' := Host.Outcome.next.inj h
  exact lookAlike_respond .ok _ (lookAlike_cleared s s')

/-! ### One key byte -/

/-- A full buffer takes no byte (40_key.md R102). -/
theorem appendKeyByte_of_full {s : State} (h : s.KEYLEN.toNat = 256) (b : Byte) : appendKeyByte b s = s := by
  simp [appendKeyByte, h]

theorem appendKeyByte_frame (b : Byte) (s : State) :
    appendKeyByte b s = { s with K := (appendKeyByte b s).K, KEYLEN := (appendKeyByte b s).KEYLEN } := by
  unfold appendKeyByte
  split <;> rfl

theorem toNat_KEYLEN_appendKeyByte (b : Byte) {s : State} (h : s.KEYLEN.toNat ≤ 256) :
    (appendKeyByte b s).KEYLEN.toNat = min 256 (s.KEYLEN.toNat + 1) := by
  unfold appendKeyByte
  split
  · have hadd : (s.KEYLEN + 1#9).toNat = s.KEYLEN.toNat + 1 := by bv_omega
    simp only [hadd]
    omega
  · omega

/-- The byte goes to entry `KEYLEN`; a full buffer has no such entry (40_key.md R101, R102). -/
theorem readEntry_appendKeyByte (b : Byte) (s : State) (n : Byte) :
    readEntry (appendKeyByte b s).K n = if n.toNat = s.KEYLEN.toNat then b else readEntry s.K n := by
  unfold appendKeyByte
  split
  · have hn : n = s.KEYLEN.setWidth 8 ↔ n.toNat = s.KEYLEN.toNat := by bv_omega
    simp only [readEntry_writeEntry, hn]
  · have hn : n.toNat ≠ s.KEYLEN.toNat := by omega
    rw [if_neg hn]

/-- Settles O8: the byte appended, discarded, or refused. -/
theorem kpushAppendsDiscardsOrIsLocked : Obligations.KpushAppendsDiscardsOrIsLocked := by
  intro b s
  refine ⟨rfl, fun hr hlt => ?_, fun hr hfull => ?_, fun hr => exec_kpush_of_keyed hr b⟩
  · have hlen : (appendKeyByte b s).KEYLEN.toNat = s.KEYLEN.toNat + 1 := by
      rw [toNat_KEYLEN_appendKeyByte b hlt.le, min_eq_right hlt]
    refine ⟨_, exec_kpush_of_not_keyed hr b, readEntry_appendKeyByte b s, hlen, ?_, ?_, ?_⟩
    · rw [Bool.eq_false_iff, ne_eq, kempty_iff, respond_KEYLEN, hlen]
      exact Nat.succ_ne_zero _
    · rw [kfull_iff, respond_KEYLEN, hlen, Nat.succ_inj]
    · exact congrArg (respond .ok 0x00#8) (appendKeyByte_frame b s)
  · rw [exec_kpush_of_not_keyed hr, appendKeyByte_of_full hfull]
    rfl

/-! ### A list of key bytes -/

/-- The state after key bytes pushed one after another. -/
def appendKeyBytes (bs : List Byte) (s : State) : State := bs.foldl (fun u b => appendKeyByte b u) s

@[simp] theorem appendKeyBytes_nil (s : State) : appendKeyBytes [] s = s := rfl

@[simp] theorem appendKeyBytes_cons (b : Byte) (bs : List Byte) (s : State) :
    appendKeyBytes (b :: bs) s = appendKeyBytes bs (appendKeyByte b s) := rfl

theorem appendKeyBytes_append (as bs : List Byte) (s : State) :
    appendKeyBytes (as ++ bs) s = appendKeyBytes bs (appendKeyBytes as s) := List.foldl_append

/-- Pushes write `K` and `KEYLEN` only. -/
theorem appendKeyBytes_frame (bs : List Byte) (s : State) :
    appendKeyBytes bs s = { s with K := (appendKeyBytes bs s).K, KEYLEN := (appendKeyBytes bs s).KEYLEN } := by
  induction bs generalizing s with
  | nil => rfl
  | cons b bs ih => rw [appendKeyBytes_cons, ih, appendKeyByte_frame]

@[simp] theorem appendKeyBytes_S (bs : List Byte) (s : State) : (appendKeyBytes bs s).S = s.S := by
  rw [appendKeyBytes_frame]

@[simp] theorem appendKeyBytes_i (bs : List Byte) (s : State) : (appendKeyBytes bs s).i = s.i := by
  rw [appendKeyBytes_frame]

@[simp] theorem appendKeyBytes_j (bs : List Byte) (s : State) : (appendKeyBytes bs s).j = s.j := by
  rw [appendKeyBytes_frame]

@[simp] theorem appendKeyBytes_READY (bs : List Byte) (s : State) : (appendKeyBytes bs s).READY = s.READY := by
  rw [appendKeyBytes_frame]

/-- A full buffer takes no bytes (40_key.md R102). -/
theorem appendKeyBytes_of_full {s : State} (h : s.KEYLEN.toNat = 256) (bs : List Byte) : appendKeyBytes bs s = s := by
  induction bs with
  | nil => rfl
  | cons b bs ih => rw [appendKeyBytes_cons, appendKeyByte_of_full h, ih]

theorem toNat_KEYLEN_appendKeyBytes (bs : List Byte) {s : State} (h : s.KEYLEN.toNat ≤ 256) :
    (appendKeyBytes bs s).KEYLEN.toNat = min 256 (s.KEYLEN.toNat + bs.length) := by
  induction bs generalizing s with
  | nil => exact (min_eq_right h).symm
  | cons b bs ih =>
    have hb := toNat_KEYLEN_appendKeyByte b h
    rw [appendKeyBytes_cons, ih (by omega), List.length_cons]
    omega

/-- Entry `KEYLEN` takes the first byte, the next entry the second, and so on; the entries before `KEYLEN`, and those
the bytes do not reach, stand (40_key.md R104). -/
theorem readEntry_appendKeyBytes (bs : List Byte) {s : State} (h : s.KEYLEN.toNat ≤ 256) (n : Byte) :
    readEntry (appendKeyBytes bs s).K n =
      if n.toNat < s.KEYLEN.toNat then readEntry s.K n
      else bs.getD (n.toNat - s.KEYLEN.toNat) (readEntry s.K n) := by
  induction bs generalizing s with
  | nil => simp
  | cons b bs ih =>
    have hb := toNat_KEYLEN_appendKeyByte b h
    rw [appendKeyBytes_cons, ih (by omega), hb, readEntry_appendKeyByte]
    rcases lt_trichotomy n.toNat s.KEYLEN.toNat with hlt | heq | hgt
    · rw [if_pos (by omega), if_neg hlt.ne, if_pos hlt]
    · rw [if_pos (by omega), if_pos heq, if_neg heq.not_lt, heq, Nat.sub_self, List.getD_cons_zero]
    · have hn : n.toNat - s.KEYLEN.toNat = n.toNat - min 256 (s.KEYLEN.toNat + 1) + 1 := by omega
      rw [if_neg (by omega), if_neg hgt.ne', if_neg hgt.not_gt, hn, List.getD_cons_succ]

/-! ### A whole key -/

/-- The state change of `KEY`: its bytes pushed on a cleared key (30_encoding.md R86). -/
def loadKey (key : List Byte) (s : State) : State := appendKeyBytes key (clearKey s)

@[simp] theorem loadKey_S (key : List Byte) (s : State) : (loadKey key s).S = s.S := appendKeyBytes_S key _
@[simp] theorem loadKey_i (key : List Byte) (s : State) : (loadKey key s).i = s.i := appendKeyBytes_i key _
@[simp] theorem loadKey_j (key : List Byte) (s : State) : (loadKey key s).j = s.j := appendKeyBytes_j key _
@[simp] theorem loadKey_READY (key : List Byte) (s : State) : (loadKey key s).READY = false :=
  appendKeyBytes_READY key _

theorem toNat_KEYLEN_loadKey (key : List Byte) (s : State) :
    (loadKey key s).KEYLEN.toNat = min 256 key.length := by
  rw [loadKey, toNat_KEYLEN_appendKeyBytes key (Nat.zero_le _)]
  simp

/-- Byte n of the key stands in entry n, as far as the buffer goes (40_key.md R104). -/
theorem readEntry_loadKey (key : List Byte) (s : State) {n : Nat} (hn : n < key.length) (hn' : n < 256) :
    readEntry (loadKey key s).K (BitVec.ofNat 8 n) = key.getD n 0#8 := by
  have hmod : (BitVec.ofNat 8 n).toNat = n := by rw [BitVec.toNat_ofNat]; exact Nat.mod_eq_of_lt hn'
  rw [loadKey, readEntry_appendKeyBytes key (Nat.zero_le _), hmod]
  simp [hn]

/-! ### A run of `KEY` -/

/-- A command's word presented at a command boundary: its response is the first of the run. -/
theorem runWords_encode_cons {i : Instr} {s u : State} (ws : List Word) (hb : AtBoundary s)
    (h : exec i (takeResponse s) = .next u) :
    runWords (encode i :: ws) s = (runWords ws u).map fun r => (u.RSP :: r.1, r.2) :=
  runWords_cons _ ws s u hb ((runWord_of_command (decode_encode i) _).trans h)

/-- A key byte appended reads nothing of the phase and of the response before it. -/
theorem respond_appendKeyByte_takeResponse (st st' : Status) (d d' b : Byte) (s : State) :
    respond st d (appendKeyByte b (takeResponse (respond st' d' s))) = respond st d (appendKeyByte b s) := by
  unfold appendKeyByte
  rw [takeResponse_KEYLEN, respond_KEYLEN]
  split <;> rfl

/-- Pushes on a block that is not keyed all respond OK. -/
theorem runWords_kpush (bs : List Byte) {s : State} (hr : s.READY = false) :
    runWords (bs.map fun b => encode (.kpush b)) (respond .ok 0x00#8 s) =
      some (List.replicate bs.length 0x0000#16, respond .ok 0x00#8 (appendKeyBytes bs s)) := by
  induction bs generalizing s with
  | nil => rfl
  | cons b bs ih =>
    have hx : exec (.kpush b) (takeResponse (respond .ok 0x00#8 s)) =
        .next (respond .ok 0x00#8 (appendKeyByte b s)) := by
      rw [exec_kpush_of_not_keyed (by simpa using hr), respond_appendKeyByte_takeResponse]
    rw [List.map_cons, runWords_encode_cons _ (.inr rfl) hx, ih (by rwa [appendKeyByte_READY])]
    rfl

/-- `KEY` from a command boundary responds OK throughout, and leaves the key loaded (30_encoding.md R86). -/
theorem runWords_key (key : List Byte) {s : State} (hb : AtBoundary s) :
    runWords (expandWords (.key key)) s =
      some (List.replicate (key.length + 1) 0x0000#16, respond .ok 0x00#8 (loadKey key s)) := by
  have hwords : expandWords (.key key) = encode .kclr :: key.map fun b => encode (.kpush b) := by
    simp [expandWords, expand, keyCommands]
  have hx : exec .kclr (takeResponse s) = .next (respond .ok 0x00#8 (clearKey s)) := rfl
  rw [hwords, runWords_encode_cons _ hb hx, runWords_kpush key rfl]
  rfl

/-- Settles O42: the run is `runWords_key`, and its state is read entry by entry. -/
theorem keyBytesArriveInOrder : Obligations.KeyBytesArriveInOrder := by
  intro key s hb hlen
  exact ⟨_, runWords_key key hb, (toNat_KEYLEN_loadKey key s).trans (min_eq_right hlen), loadKey_READY key s,
    fun n hn => readEntry_loadKey key s hn (hn.trans_le hlen), loadKey_S key s, loadKey_i key s, loadKey_j key s⟩

/-! ### A key of more than 256 bytes -/

/-- The bytes after the first 256 find the buffer full (40_key.md R102, R103). -/
theorem loadKey_take {key : List Byte} (h : 256 < key.length) (s : State) :
    loadKey (key.take 256) s = loadKey key s := by
  have hfull : (loadKey (key.take 256) s).KEYLEN.toNat = 256 := by
    rw [toNat_KEYLEN_loadKey, List.length_take_of_le h.le, min_self]
  calc loadKey (key.take 256) s
      = appendKeyBytes (key.drop 256) (loadKey (key.take 256) s) := (appendKeyBytes_of_full hfull _).symm
    _ = loadKey (key.take 256 ++ key.drop 256) s := (appendKeyBytes_append _ _ _).symm
    _ = loadKey key s := by rw [List.take_append_drop]

/-- Within the key, no byte is taken a second time (41_ksa.md R121). -/
theorem keyByte_of_lt {key : List Byte} {n : Nat} (h : n < key.length) :
    Reference.keyByte key n = key.getD n 0#8 := by
  rw [Reference.keyByte, Nat.mod_eq_of_lt h]

theorem keyByte_take {key : List Byte} (h : 256 < key.length) {n : Nat} (hn : n < 256) :
    Reference.keyByte (key.take 256) n = key.getD n 0#8 := by
  rw [keyByte_of_lt (by rwa [List.length_take_of_le h.le]), List.getD_eq_getElem?_getD, List.getElem?_take_of_lt hn,
    List.getD_eq_getElem?_getD]

/-- The key schedule's first n iterations read the first n key bytes only (41_ksa.md R122). -/
theorem ksa_congr {E F : Nat → Byte} {n : Nat} (h : ∀ m < n, E m = F m) :
    Reference.ksa E n = Reference.ksa F n := by
  induction n with
  | zero => rfl
  | succ n ih =>
    have hprev := ih fun m hm => h m (hm.trans n.lt_succ_self)
    rw [Reference.ksa, Reference.ksa, hprev, h n n.lt_succ_self]

/-- Keys that agree in the 256 bytes the schedule takes start the same generator. -/
theorem start_congr {key key' : List Byte} (h : ∀ n < 256, Reference.keyByte key n = Reference.keyByte key' n) :
    Reference.start key = Reference.start key' := by
  rw [Reference.start, Reference.start, ksa_congr (by rwa [Config.entriesOfS_eq])]

theorem generateKeystream_of_ne_nil {key : List Byte} (h : key ≠ []) (L : Nat) :
    Reference.generateKeystream key L = some (Reference.stream L (Reference.start key)) := by
  cases key with
  | nil => exact absurd rfl h
  | cons b bs => rfl

/-- Settles O43: the schedule takes 256 bytes, and the buffer holds 256. -/
theorem longKeysAreTruncatedExactly : Obligations.LongKeysAreTruncatedExactly := by
  intro key h
  have hbytes : ∀ n < 256, Reference.keyByte key n = key.getD n 0#8 ∧
      Reference.keyByte (key.take 256) n = key.getD n 0#8 :=
    fun n hn => ⟨keyByte_of_lt (hn.trans h), keyByte_take h hn⟩
  have htake : (key.take 256).length = 256 := List.length_take_of_le h.le
  refine ⟨hbytes, fun L => ?_, fun s hb => ⟨_, runWords_key key hb, ?_⟩⟩
  · have hstart := start_congr fun n hn => (hbytes n hn).1.trans (hbytes n hn).2.symm
    rw [generateKeystream_of_ne_nil (List.ne_nil_of_length_pos (by omega)),
      generateKeystream_of_ne_nil (List.ne_nil_of_length_pos (by omega)), hstart]
  · rw [runWords_key _ hb, htake, loadKey_take h]

end Sys2Proof.Proofs
end

section
/-! PROOFS. Key scheduling (41_ksa.md): `KSA` against the schedule over functions (R120), its array a permutation
(R128), the loop in two portions (R129), the key pointer (R125), and what the schedule and its keystream depend on
(R124, R127). -/

namespace Sys2Proof.Proofs

open Sys2Proof.Machine Sys2Proof.Safety Sys2Proof.Laws

/-! ### The command -/

theorem exec_ksa_of_key {s : State} (hk : s.KEYLEN ≠ 0#9) :
    exec .ksa s = .next (respond .ok 0x00#8 (scheduleKey s)) := by
  simp [exec, execKsa, hk]

theorem exec_ksa_of_empty_key {s : State} (hk : s.KEYLEN = 0#9) : exec .ksa s = .next (raiseError .invalidKey s) := by
  simp [exec, execKsa, hk]

/-! ### The array against the schedule over functions -/

/-- The entries of a swapped array are the entries exchanged as a function (00_scope.md R14). -/
theorem readEntry_swapEntries_eq_swap (a : Table) (p q : Byte) :
    readEntry (swapEntries a p q) = Reference.swap (readEntry a) p q :=
  funext (readEntry_swapEntries a p q)

/-- The loop's array, read by its entries, and its j are those of the schedule over functions after any number of
iterations (41_ksa.md R122, R123). -/
theorem ksaLoop_eq_reference (E : Nat → Byte) (n : Nat) :
    (readEntry (ksaLoop E n).1, (ksaLoop E n).2) = Reference.ksa E n := by
  induction n with
  | zero => exact Prod.ext (funext readEntry_identityTable) rfl
  | succ n ih => rw [Reference.ksa, ← ih, ← readEntry_swapEntries_eq_swap]; rfl

theorem readEntry_scheduledArray (E : Nat → Byte) :
    readEntry (scheduledArray E) = (Reference.ksa E Config.entriesOfS).1 :=
  congrArg Prod.fst (ksaLoop_eq_reference E Config.entriesOfS)

/-- Settles O9: the array `KSA` leaves is the schedule's (`readEntry_scheduledArray`). -/
theorem ksaSchedulesTheKey : Obligations.KsaSchedulesTheKey := by
  refine ⟨rfl, fun s => ⟨fun hk => ?_, exec_ksa_of_empty_key⟩⟩
  exact ⟨_, exec_ksa_of_key hk, congrFun (readEntry_scheduledArray (cyclicKey s)), rfl⟩

/-- Settles O33: every iteration swaps, starting from the identity (`isPermutation_ksaLoop`). -/
theorem scheduledArrayIsAPermutation : Obligations.ScheduledArrayIsAPermutation :=
  fun _ hk => ⟨_, exec_ksa_of_key hk, by simp [responseWord_ok, stOf], isPermutation_ksaLoop _ _⟩

/-! ### The forms an implementation may use -/

/-- Settles O37, by induction on the iterations: the remainder of n + 1 is 0 when that of n is the last one, and the
next one otherwise. -/
theorem keyPointerIsTheRemainder : Obligations.KeyPointerIsTheRemainder := by
  intro len n hlen
  induction n with
  | zero => exact (Nat.zero_mod len).symm
  | succ n ih =>
    rw [keyPointer, ih, ← Nat.mod_add_mod]
    split
    · next hlast => rw [hlast, Nat.mod_self]
    · next hnot =>
      have hlt : n % len < len := Nat.mod_lt n hlen
      exact (Nat.mod_eq_of_lt (by omega)).symm

/-- Settles O38: two portions are the whole loop (`ksaMicroSteps_add`), and the whole loop is the schedule
(`ksaEnd_ksaMicroSteps_all`). -/
theorem loopInPortionsIsTheCommand : Obligations.LoopInPortionsIsTheCommand := by
  intro s c hc hk
  have portions := ksaMicroSteps_add c (256 - c) 0 (ksaBegin s)
  rw [Nat.add_sub_cancel' hc, Nat.zero_add] at portions
  rw [exec_ksa_of_key hk, ← ksaEnd_ksaMicroSteps_all, portions]

/-! ### Keys with the same cyclic extension -/

/-- The scheduled array depends on the 256 key bytes that the iterations take alone (41_ksa.md R124). -/
theorem scheduledArray_congr {E F : Nat → Byte} (h : ∀ n < 256, E n = F n) : scheduledArray E = scheduledArray F := by
  refine table_ext fun n => ?_
  rw [readEntry_scheduledArray, readEntry_scheduledArray, ksa_congr (by rwa [Config.entriesOfS_eq])]

/-- In a list repeated, position i holds what the list holds at the remainder of i. -/
theorem getD_flatten_replicate (l : List Byte) (d : Byte) {m i : Nat} (h : i < m * l.length) :
    (List.replicate m l).flatten.getD i d = l.getD (i % l.length) d := by
  induction m generalizing i with
  | zero => omega
  | succ m ih =>
    rw [List.replicate_succ, List.flatten_cons]
    rcases lt_or_ge i l.length with hlt | hge
    · rw [List.getD_append _ _ _ _ hlt, Nat.mod_eq_of_lt hlt]
    · rw [Nat.succ_mul] at h
      rw [List.getD_append_right _ _ _ _ hge, ih (by omega), ← Nat.mod_eq_sub_mod hge]

/-- A key and the key repeated have the same cyclic extension (41_ksa.md R124). -/
theorem keyByte_flatten_replicate {key : List Byte} (hkey : key ≠ []) {m : Nat} (hm : 1 ≤ m) (n : Nat) :
    Reference.keyByte (List.replicate m key).flatten n = Reference.keyByte key n := by
  have hlen : (List.replicate m key).flatten.length = m * key.length := by simp
  have hpos : 0 < m * key.length := Nat.mul_pos hm (List.length_pos_iff.2 hkey)
  rw [Reference.keyByte, hlen, getD_flatten_replicate key 0#8 (Nat.mod_lt n hpos),
    Nat.mod_mod_of_dvd n (Nat.dvd_mul_left _ _), Reference.keyByte]

/-- A key repeated gives the key's keystream; the empty key repeated is empty (41_ksa.md R124). -/
theorem generateKeystream_flatten_replicate (key : List Byte) {m : Nat} (hm : 1 ≤ m) (L : Nat) :
    Reference.generateKeystream (List.replicate m key).flatten L = Reference.generateKeystream key L := by
  rcases eq_or_ne key [] with rfl | hkey
  · rw [List.flatten_replicate_nil]
  · have hrep : (List.replicate m key).flatten ≠ [] := by
      simpa [Nat.one_le_iff_ne_zero.1 hm] using hkey
    rw [generateKeystream_of_ne_nil hrep, generateKeystream_of_ne_nil hkey,
      start_congr fun n _ => keyByte_flatten_replicate hkey hm n]

/-- Settles O39: the arrays agree by `scheduledArray_congr`, and i, j and `READY` are the same after every `KSA`. -/
theorem onlyTheCyclicExtensionCounts : Obligations.OnlyTheCyclicExtensionCounts := by
  refine ⟨fun s s' t t' hk hk' hkey ht ht' => ?_, fun key m L hm => generateKeystream_flatten_replicate key hm L⟩
  obtain rfl := Host.Outcome.next.inj ((exec_ksa_of_key hk).symm.trans ht)
  obtain rfl := Host.Outcome.next.inj ((exec_ksa_of_key hk').symm.trans ht')
  exact ⟨scheduledArray_congr hkey, rfl, rfl, rfl⟩

/-! ### Re-keying -/

/-- The schedule does not read `READY` (41_ksa.md R120). -/
theorem scheduleKey_of_ready (r : Bool) (s : State) : scheduleKey { s with READY := r } = scheduleKey s := rfl

/-- After a schedule of the same key two blocks look alike, whatever `S`, i, j and `READY` were: the schedule reads
none of them (41_ksa.md R127). -/
theorem lookAlike_scheduleKey_of_same_key {s t : State} (hk : s.KEYLEN ≠ 0#9) (hlen : s.KEYLEN = t.KEYLEN)
    (hkey : ∀ n : Byte, n.toNat < s.KEYLEN.toNat → readEntry s.K n = readEntry t.K n) :
    LookAlike (scheduleKey s) (scheduleKey t) := by
  have unkeyed : LookAlike { s with READY := false } { t with READY := false } :=
    ⟨rfl, hlen, hkey, fun hr => absurd hr Bool.false_ne_true⟩
  simpa only [scheduleKey_of_ready] using lookAlike_scheduleKey unkeyed hk

/-- `KSA` as the first word of a run, on a block with a key. -/
theorem runWords_ksa_cons {s : State} (ws : List Word) (hb : AtBoundary s) (hk : s.KEYLEN ≠ 0#9) :
    runWords (0x3000#16 :: ws) s =
      (runWords ws (respond .ok 0x00#8 (scheduleKey s))).map fun r => (0x0000#16 :: r.1, r.2) :=
  runWords_encode_cons ws hb (exec_ksa_of_key hk)

/-- Settles O40: after `KSA` the two blocks look alike, and look-alike blocks answer alike
(`hiddenContentsReachNoResponse`). -/
theorem ksaRestartsTheKeystream : Obligations.KsaRestartsTheKeystream := by
  intro ws s t hs ht hk hlen hkey
  obtain ⟨rs, s', t', hrs, hrt, -⟩ := hiddenContentsReachNoResponse ws _ _ (.inr rfl) (.inr rfl)
    (lookAlike_respond .ok 0x00#8 (lookAlike_scheduleKey_of_same_key hk hlen hkey))
  refine ⟨rs, s', t', ?_, ?_⟩
  · rw [runWords_ksa_cons ws hs hk, hrs]; rfl
  · rw [runWords_ksa_cons ws ht (hlen ▸ hk), hrt]; rfl

end Sys2Proof.Proofs
end

section
/-! PROOFS. Keystream generation (42_prga.md): the PRGA step and its output mux (R140, R143, R145, R146), `GEN` (R141),
the words that answer an error (R147), and a session of `GEN` and `XOR` words against `generate_keystream` (R148,
R149). -/

namespace Sys2Proof.Proofs

open Sys2Proof.Machine Sys2Proof.Safety Sys2Proof.Laws

/-! ### The PRGA step -/

@[simp] theorem readEntry_swapEntries_left (a : Table) (p q : Byte) :
    readEntry (swapEntries a p q) p = readEntry a q := by
  rw [readEntry_swapEntries, if_pos rfl]

@[simp] theorem readEntry_swapEntries_right (a : Table) (p q : Byte) :
    readEntry (swapEntries a p q) q = readEntry a p := by
  rw [readEntry_swapEntries]
  split
  · next h => rw [h]
  · rw [if_pos rfl]

/-- The output index is the sum of the two entries, in whichever order they are read: after the swap (42_prga.md R140)
or before it (R143). -/
theorem prgaStep_ks (S : Table) (i j : Byte) :
    (prgaStep S i j).ks =
      readEntry (prgaStep S i j).S (readEntry S (i + 1#8) + readEntry S (j + readEntry S (i + 1#8))) := by
  simp only [prgaStep, readEntry_swapEntries_left, readEntry_swapEntries_right, BitVec.add_comm]

/-- Settles O35: with the index of `prgaStep_ks`, the mux is the read after a swap (`readEntry_swapEntries`). -/
theorem bypassMuxIsTheOutputMux : Obligations.BypassMuxIsTheOutputMux := by
  intro S i j
  rw [prgaStep_ks]
  exact (readEntry_swapEntries S _ _ _).symm

theorem add_self_eq_ofNat (a : Byte) : a + a = BitVec.ofNat 8 (2 * a.toNat) := by
  rw [Nat.two_mul, BitVec.ofNat_add, BitVec.ofNat_toNat, BitVec.setWidth_eq]

/-- Settles O36: the swap is a self-swap, and both entries read are the one at i + 1. -/
theorem selfSwapStepReadsTwiceTheEntry : Obligations.SelfSwapStepReadsTwiceTheEntry := by
  intro S i j hj
  have hS : (prgaStep S i j).S = S := by simp only [prgaStep, hj, swapEntries_self]
  exact ⟨hS, by rw [prgaStep_ks, hS, hj, add_self_eq_ofNat]⟩

/-! ### One command -/

theorem exec_gen_of_keyed {s : State} (hr : s.READY = true) :
    exec .gen s = .next (respond .ok (prgaOf s).ks (advanceKeystream s)) := by
  simp [exec, execGen, hr]

theorem exec_xor_of_keyed {s : State} (hr : s.READY = true) (d : Byte) :
    exec (.xor d) s = .next (respond .ok (d ^^^ (prgaOf s).ks) (advanceKeystream s)) := by
  simp [exec, execXor, hr]

theorem exec_xor_of_not_keyed {s : State} (hr : s.READY = false) (d : Byte) :
    exec (.xor d) s = .next (raiseError .notKeyed s) := by
  simp [exec, execXor, hr]

/-- Settles O10: the new array is the swapped one, read by `readEntry_swapEntries`. -/
theorem genTakesOnePrgaStep : Obligations.GenTakesOnePrgaStep := by
  refine ⟨rfl, fun s => ⟨fun hr => ?_, exec_gen_of_not_keyed⟩⟩
  refine ⟨_, exec_gen_of_keyed hr, readEntry_swapEntries _ _ _, ?_⟩
  rw [respond, responseWord_ok]
  rfl

/-- Settles O34: the step only swaps (`isPermutation_prgaStep`), and `GEN` and `XOR` take the step. -/
theorem prgaStepKeepsThePermutation : Obligations.PrgaStepKeepsThePermutation :=
  ⟨fun _ i j h => isPermutation_prgaStep i j h, fun _ d hr h =>
    ⟨⟨_, exec_gen_of_keyed hr, hr, isPermutation_prgaStep _ _ h⟩,
      ⟨_, exec_xor_of_keyed hr d, hr, isPermutation_prgaStep _ _ h⟩⟩⟩

/-! ### Words that answer an error -/

/-- A command completes OK, or raises an error and changes nothing else (60_exceptions.md R200). -/
theorem exec_ok_or_error (i : Instr) (s : State) :
    (∃ d u, exec i s = .next (respond .ok d u)) ∨ ∃ e, exec i s = .next (raiseError e s) := by
  cases i with
  | nop | kclr | rdstat | rdklen => exact .inl ⟨_, _, rfl⟩
  | kpush b =>
    cases hr : s.READY
    · exact .inl ⟨_, _, exec_kpush_of_not_keyed hr b⟩
    · exact .inr ⟨_, exec_kpush_of_keyed hr b⟩
  | ksa =>
    by_cases hk : s.KEYLEN = 0#9
    · exact .inr ⟨_, exec_ksa_of_empty_key hk⟩
    · exact .inl ⟨_, _, exec_ksa_of_key hk⟩
  | gen =>
    cases hr : s.READY
    · exact .inr ⟨_, exec_gen_of_not_keyed hr⟩
    · exact .inl ⟨_, _, exec_gen_of_keyed hr⟩
  | xor d =>
    cases hr : s.READY
    · exact .inr ⟨_, exec_xor_of_not_keyed hr d⟩
    · exact .inl ⟨_, _, exec_xor_of_keyed hr d⟩

@[simp] theorem stOf_responseWord (st : Status) (d : Byte) : stOf (responseWord st d) = st.code :=
  (responseWordHasThreeFields.1 st d).1

/-- A word whose response is an error has raised it (60_exceptions.md R200, R201). -/
theorem eq_raiseError_of_stOf_ne_zero {w : Word} {s t : State} (h : runWord w s = .next t) (hst : stOf t.RSP ≠ 0#4) :
    ∃ e, t = raiseError e s := by
  rcases runWord_cases w s with ⟨i, -, hi⟩ | ⟨why, -, hw⟩
  · rcases exec_ok_or_error i s with ⟨d, u, hx⟩ | ⟨e, hx⟩
    · obtain rfl : t = respond .ok d u := Host.Outcome.next.inj (h.symm.trans (hi.trans hx))
      exact absurd (stOf_responseWord .ok d) hst
    · exact ⟨e, Host.Outcome.next.inj (h.symm.trans (hi.trans hx))⟩
  · exact ⟨.illegal, Host.Outcome.next.inj (h.symm.trans hw)⟩

/-- An error changes nothing that a later response shows (60_exceptions.md R209). -/
theorem lookAlike_raiseError (e : Status) (s : State) : LookAlike s (raiseError e (takeResponse s)) :=
  ⟨rfl, rfl, fun _ _ => rfl, fun _ => ⟨rfl, rfl, rfl⟩⟩

/-- A run that starts at a command boundary ends at one. -/
theorem atBoundary_of_runWords {ws rs : List Word} {s t : State} (hb : AtBoundary s)
    (h : runWords ws s = some (rs, t)) : AtBoundary t := by
  obtain ⟨rs', t', h', -, ht'⟩ := runWords_answers ws s hb
  obtain ⟨-, rfl⟩ : rs' = rs ∧ t' = t := by simpa using h'.symm.trans h
  exact ht'

/-- A run of one word is that word, run. -/
theorem runWord_of_runWords_singleton {w r : Word} {s t : State} (hb : AtBoundary s)
    (h : runWords [w] s = some ([r], t)) : runWord w (takeResponse s) = .next t ∧ r = t.RSP := by
  obtain ⟨u, hu, -⟩ := runWord_answers w (takeResponse s)
  obtain ⟨hr, rfl⟩ : u.RSP = r ∧ u = t := by simpa [runWords] using (runWords_cons w [] s u hb hu).symm.trans h
  exact ⟨hu, hr.symm⟩

/-- Settles O31: the states before and after the refused word look alike, and look-alike blocks answer the later words
alike (`hiddenContentsReachNoResponse`). -/
theorem refusedWordsChangeNoOtherResponse : Obligations.RefusedWordsChangeNoOtherResponse := by
  intro before later w r s m m' rs hb hbefore hw hst
  have hm : AtBoundary m := atBoundary_of_runWords hb hbefore
  obtain ⟨hrun, rfl⟩ := runWord_of_runWords_singleton hm hw
  obtain ⟨e, rfl⟩ := eq_raiseError_of_stOf_ne_zero hrun hst
  obtain ⟨rs', t, t', ht, ht', -⟩ := hiddenContentsReachNoResponse later m _ hm (.inr rfl) (lookAlike_raiseError e m)
  refine ⟨rs', t, t', ?_, ?_⟩
  · rw [runWords_append _ _ _ _ _ hbefore, ht]; rfl
  · rw [runWords_append _ _ _ _ _ hbefore, runWords_cons w later m _ hm hrun, ht']; rfl

/-! ### Words that take a keystream byte -/

/-- The generator in the registers: `S` by its entries, and the indices. -/
def generatorOf (s : State) : Reference.Generator := { S := readEntry s.S, i := s.i, j := s.j }

/-- The registers take the generator's step (42_prga.md R140). -/
theorem generatorOf_advanceKeystream (s : State) :
    generatorOf (advanceKeystream s) = Reference.next (generatorOf s) := by
  simp only [generatorOf, Reference.next, ← readEntry_swapEntries_eq_swap]
  rfl

/-- The keystream byte of the step is the one that the generator shows after it (42_prga.md R140, R142). -/
theorem prgaOf_ks_eq_output (s : State) : (prgaOf s).ks = Reference.output (Reference.next (generatorOf s)) := by
  rw [← generatorOf_advanceKeystream]
  rfl

/-- The state after a `GEN` or `XOR` word on a keyed block (42_prga.md R141, 43_xform.md R160). -/
def afterKeystreamWord (c : Option Byte) (s : State) : State :=
  { advanceKeystream s with PHASE := .resp, RSP := keystreamResponse c (prgaOf s).ks }

theorem generatorOf_afterKeystreamWord (c : Option Byte) (s : State) :
    generatorOf (afterKeystreamWord c s) = Reference.next (generatorOf s) := generatorOf_advanceKeystream s

theorem runWord_keystreamWord_of_keyed {s : State} (hr : s.READY = true) (c : Option Byte) :
    runWord (keystreamWord c) s = .next (afterKeystreamWord c s) := by
  cases c with
  | none =>
    rw [keystreamWord, runWord_of_command (decode_encode _), exec_gen_of_keyed hr, respond, responseWord_ok]
    rfl
  | some d =>
    rw [keystreamWord, runWord_of_command (decode_encode _), exec_xor_of_keyed hr, respond, responseWord_ok]
    rfl

theorem runWord_keystreamWord_of_not_keyed {s : State} (hr : s.READY = false) (c : Option Byte) :
    runWord (keystreamWord c) s = .next (raiseError .notKeyed s) := by
  cases c with
  | none => rw [keystreamWord, runWord_of_command (decode_encode _), exec_gen_of_not_keyed hr]
  | some d => rw [keystreamWord, runWord_of_command (decode_encode _), exec_xor_of_not_keyed hr]

/-- On a keyed block a run of `GEN` and `XOR` words uses the generator's next bytes in order, and takes one step a word
(42_prga.md R149, 43_xform.md R165). -/
theorem runWords_keystream (cmds : List (Option Byte)) {s : State} (hb : AtBoundary s) (hr : s.READY = true) :
    ∃ t, runWords (cmds.map keystreamWord) s =
        some (List.zipWith keystreamResponse cmds (Reference.stream cmds.length (generatorOf s)), t) ∧
      t.READY = true ∧ generatorOf t = Reference.next^[cmds.length] (generatorOf s) := by
  induction cmds generalizing s with
  | nil => exact ⟨s, rfl, hr, rfl⟩
  | cons c cmds ih =>
    obtain ⟨t, ht, htr, htg⟩ := ih (s := afterKeystreamWord c (takeResponse s)) (.inr rfl) hr
    have hg : generatorOf (afterKeystreamWord c (takeResponse s)) = Reference.next (generatorOf s) :=
      generatorOf_afterKeystreamWord c _
    have hrsp : (afterKeystreamWord c (takeResponse s)).RSP =
        keystreamResponse c (Reference.output (Reference.next (generatorOf s))) :=
      congrArg (keystreamResponse c) (prgaOf_ks_eq_output s)
    have hw := runWord_keystreamWord_of_keyed (s := takeResponse s) hr c
    refine ⟨t, ?_, htr, htg.trans (congrArg Reference.next^[cmds.length] hg)⟩
    rw [List.map_cons, runWords_cons _ _ s _ hb hw, ht, hg, hrsp]
    rfl

/-- On a block that is not keyed, every `GEN` and `XOR` word responds `E_NOT_KEYED` (60_exceptions.md R203). -/
theorem runWords_keystream_of_not_keyed (cmds : List (Option Byte)) {s : State} (hb : AtBoundary s)
    (hr : s.READY = false) :
    ∃ t, runWords (cmds.map keystreamWord) s = some (List.replicate cmds.length 0x3000#16, t) := by
  induction cmds generalizing s with
  | nil => exact ⟨s, rfl⟩
  | cons c cmds ih =>
    obtain ⟨t, ht⟩ := ih (s := raiseError .notKeyed (takeResponse s)) (.inr rfl) hr
    have hw := runWord_keystreamWord_of_not_keyed (s := takeResponse s) hr c
    refine ⟨t, ?_⟩
    rw [List.map_cons, runWords_cons _ _ s _ hb hw, ht]
    rfl

/-! ### Counting the steps -/

/-- After n steps i is n more (42_prga.md R149). -/
theorem iterate_next_i (n : Nat) (g : Reference.Generator) :
    (Reference.next^[n] g).i = g.i + BitVec.ofNat 8 n := by
  induction n generalizing g with
  | zero => exact (BitVec.add_zero g.i).symm
  | succ n ih =>
    calc (Reference.next^[n + 1] g).i
        = g.i + 1#8 + BitVec.ofNat 8 n := ih (Reference.next g)
      _ = g.i + BitVec.ofNat 8 (n + 1) := by rw [BitVec.add_assoc, ← BitVec.ofNat_add, Nat.add_comm]

/-- A `GEN` or an `XOR` is the keystream word of its operand. -/
theorem encode_eq_keystreamWord {c : Instr} (h : c = .gen ∨ ∃ d, c = .xor d) : encode c = keystreamWord c.operand := by
  rcases h with rfl | ⟨d, rfl⟩ <;> rfl

/-- Settles O41: `KSA` leaves a keyed block with i = 0, and each word takes one step (`runWords_keystream`). -/
theorem indexCountsTheSteps : Obligations.IndexCountsTheSteps := by
  intro cmds s hb hk hcmds
  have hwords : cmds.map encode = (cmds.map Instr.operand).map keystreamWord := by
    rw [List.map_map]
    exact List.map_congr_left fun c hc => encode_eq_keystreamWord (hcmds c hc)
  obtain ⟨t, ht, htr, htg⟩ := runWords_keystream (cmds.map Instr.operand)
    (s := respond .ok 0x00#8 (scheduleKey s)) (.inr rfl) rfl
  refine ⟨_, t, by rw [runWords_ksa_cons _ hb hk, hwords, ht]; rfl, ?_, htr⟩
  calc t.i = (Reference.next^[(cmds.map Instr.operand).length] _).i := congrArg Reference.Generator.i htg
    _ = 0#8 + BitVec.ofNat 8 (cmds.map Instr.operand).length := iterate_next_i _ _
    _ = BitVec.ofNat 8 cmds.length := by rw [BitVec.zero_add, List.length_map]

/-! ### A session -/

theorem length_stream (n : Nat) (g : Reference.Generator) : (Reference.stream n g).length = n := by
  induction n generalizing g with
  | zero => rfl
  | succ n ih => rw [Reference.stream, List.length_cons, ih]

theorem KEYLEN_loadKey_ne_zero {key : List Byte} (hkey : key ≠ []) (s : State) : (loadKey key s).KEYLEN ≠ 0#9 := by
  intro h
  have hlen := toNat_KEYLEN_loadKey key s
  have hpos : 0 < key.length := List.length_pos_iff.2 hkey
  rw [h, BitVec.toNat_ofNat] at hlen
  omega

/-- The 256 key bytes that the schedule takes of the buffer are those of the whole key, whether the buffer holds it all
(40_key.md R104) or its first 256 bytes (R103). -/
theorem cyclicKey_loadKey {key : List Byte} (hkey : key ≠ []) (s : State) {n : Nat} (hn : n < 256) :
    cyclicKey (loadKey key s) n = Reference.keyByte key n := by
  have hpos : 0 < key.length := List.length_pos_iff.2 hkey
  rw [cyclicKey, toNat_KEYLEN_loadKey]
  rcases le_or_gt key.length 256 with hle | hgt
  · have hlt : n % key.length < key.length := Nat.mod_lt n hpos
    rw [min_eq_right hle, readEntry_loadKey key s hlt (hlt.trans_le hle), Reference.keyByte]
  · rw [min_eq_left hgt.le, Nat.mod_eq_of_lt hn, readEntry_loadKey key s (hn.trans hgt) hn,
      keyByte_of_lt (hn.trans hgt)]

/-- `KEY` and `KSA` leave the generator that `generate_keystream` starts from (42_prga.md R148). -/
theorem generatorOf_scheduleKey_loadKey {key : List Byte} (hkey : key ≠ []) (s : State) :
    generatorOf (scheduleKey (loadKey key s)) = Reference.start key := by
  have hksa : Reference.ksa (cyclicKey (loadKey key s)) Config.entriesOfS =
      Reference.ksa (Reference.keyByte key) Config.entriesOfS :=
    ksa_congr fun n hn => cyclicKey_loadKey hkey s (by rwa [Config.entriesOfS_eq] at hn)
  rw [generatorOf, scheduleKey_S, readEntry_scheduledArray, hksa, Reference.start, scheduleKey_i, scheduleKey_j]

/-- A session with a key responds OK throughout, its `GEN` and `XOR` words with the key's keystream (42_prga.md R148,
43_xform.md R165). -/
theorem runWords_session {key : List Byte} (hkey : key ≠ []) (cmds : List (Option Byte)) {s : State}
    (hb : AtBoundary s) :
    ∃ t, runWords (expandWords (.key key) ++ 0x3000#16 :: cmds.map keystreamWord) s =
      some (List.replicate (key.length + 2) 0x0000#16 ++
        List.zipWith keystreamResponse cmds (Reference.stream cmds.length (Reference.start key)), t) := by
  obtain ⟨t, ht, -, -⟩ := runWords_keystream cmds
    (s := respond .ok 0x00#8 (scheduleKey (respond .ok 0x00#8 (loadKey key s)))) (.inr rfl) rfl
  have hg : generatorOf (respond .ok 0x00#8 (scheduleKey (respond .ok 0x00#8 (loadKey key s)))) =
      Reference.start key := generatorOf_scheduleKey_loadKey hkey s
  have hk : (respond .ok 0x00#8 (loadKey key s)).KEYLEN ≠ 0#9 := KEYLEN_loadKey_ne_zero hkey s
  refine ⟨t, ?_⟩
  rw [runWords_append _ _ _ _ _ (runWords_key key hb), runWords_ksa_cons _ (.inr rfl) hk, ht, hg,
    List.replicate_succ' (n := key.length + 1), List.append_assoc]
  rfl

/-- A session with the empty key: `KSA` responds `E_INVALID_KEY`, and no word uses a keystream (60_exceptions.md
R202, R203). -/
theorem runWords_session_of_empty_key (cmds : List (Option Byte)) {s : State} (hb : AtBoundary s) :
    ∃ t, runWords (expandWords (.key []) ++ 0x3000#16 :: cmds.map keystreamWord) s =
      some (0x0000#16 :: 0x2000#16 :: List.replicate cmds.length 0x3000#16, t) := by
  have hksa : exec .ksa (takeResponse (respond .ok 0x00#8 (loadKey [] s))) =
      .next (raiseError .invalidKey (takeResponse (respond .ok 0x00#8 (loadKey [] s)))) := exec_ksa_of_empty_key rfl
  obtain ⟨t, ht⟩ := runWords_keystream_of_not_keyed cmds
    (s := raiseError .invalidKey (takeResponse (respond .ok 0x00#8 (loadKey [] s)))) (.inr rfl) rfl
  refine ⟨t, ?_⟩
  rw [runWords_append _ _ _ _ _ (runWords_key [] hb), show 0x3000#16 = encode .ksa from rfl,
    runWords_encode_cons _ (.inr rfl) hksa, ht]
  rfl

/-- `RC4GEN` is a session of `GEN` words (30_encoding.md R86). -/
theorem expandWords_rc4gen (key : List Byte) (L : Nat) :
    expandWords (.rc4gen key L) =
      expandWords (.key key) ++ 0x3000#16 :: (List.replicate L none).map keystreamWord := by
  simp [expandWords, expand, keystreamWord, encode]

theorem zipWith_keystreamResponse_replicate_none {L : Nat} {ks : List Byte} (h : ks.length = L) :
    List.zipWith keystreamResponse (List.replicate L none) ks = ks.map fun b => b.setWidth 16 := by
  subst h
  induction ks with
  | nil => rfl
  | cons k ks ih => rw [List.length_cons, List.replicate_succ, List.zipWith_cons_cons, ih]; rfl

/-- Settles O44: the session's bytes are the stream from the generator that the key starts (`runWords_session`); the
empty key starts none. -/
theorem blockGeneratesTheKeystream : Obligations.BlockGeneratesTheKeystream := by
  intro key L s hb
  refine ⟨fun hkey => ?_, rfl, ?_⟩
  · obtain ⟨t, ht⟩ := runWords_session hkey (List.replicate L none) hb
    have hlen := length_stream L (Reference.start key)
    refine ⟨_, t, generateKeystream_of_ne_nil hkey L, hlen, ?_⟩
    rw [expandWords_rc4gen, ht, List.length_replicate, zipWith_keystreamResponse_replicate_none hlen]
  · obtain ⟨t, ht⟩ := runWords_session_of_empty_key (List.replicate L none) hb
    exact ⟨t, by rw [expandWords_rc4gen, ht, List.length_replicate]⟩

end Sys2Proof.Proofs
end

section
/-! PROOFS. Keystream combining (43_xform.md): `XOR` (R160), `RC4XFORM` against `transform` (R162, R163) and applied
twice (R161), and a session that mixes `GEN` and `XOR` (R165). -/

namespace Sys2Proof.Proofs

open Sys2Proof.Machine Sys2Proof.Safety Sys2Proof.Laws

/-! ### One command -/

/-- With d = 0x00 the combination is the keystream byte itself (43_xform.md R160). -/
theorem exec_xor_zero (s : State) : exec (.xor 0x00#8) s = exec .gen s := by
  cases hr : s.READY
  · rw [exec_xor_of_not_keyed hr, exec_gen_of_not_keyed hr]
  · rw [exec_xor_of_keyed hr, exec_gen_of_keyed hr, BitVec.zero_xor]

/-- Settles O11: the new array is the swapped one, read by `readEntry_swapEntries`. -/
theorem xorCombinesOnePrgaStep : Obligations.XorCombinesOnePrgaStep := by
  intro d s
  refine ⟨rfl, exec_xor_zero s, fun hr => ?_, fun hr => exec_xor_of_not_keyed hr d⟩
  refine ⟨_, exec_xor_of_keyed hr d, readEntry_swapEntries _ _ _, ?_⟩
  rw [respond, responseWord_ok]
  rfl

/-! ### A session -/

/-- Settles O46: the bytes are the stream from the generator that the key starts (`runWords_session`). -/
theorem genAndXorShareOneKeystream : Obligations.GenAndXorShareOneKeystream := by
  intro key cmds s hb hkey
  obtain ⟨t, ht⟩ := runWords_session hkey cmds hb
  exact ⟨_, t, generateKeystream_of_ne_nil hkey _, length_stream _ _, ht⟩

/-! ### A transformation of data -/

/-- `RC4XFORM` is a session of `XOR` words (30_encoding.md R86). -/
theorem expandWords_rc4xform (key data : List Byte) :
    expandWords (.rc4xform key data) =
      expandWords (.key key) ++ 0x3000#16 :: (data.map some).map keystreamWord := by
  simp [expandWords, expand, keystreamWord, encode]

/-- `XOR` words are answered with their bytes combined with the keystream (43_xform.md R160). -/
theorem zipWith_keystreamResponse_some (data ks : List Byte) :
    List.zipWith keystreamResponse (data.map some) ks =
      (List.zipWith (fun d k => d ^^^ k) data ks).map fun b => b.setWidth 16 := by
  rw [List.zipWith_map_left, List.map_zipWith]
  rfl

/-- `RC4XFORM` with a key responds OK throughout, its `XOR` words with the data combined with the stream from the
generator that the key starts (43_xform.md R163). -/
theorem runWords_rc4xform {key : List Byte} (hkey : key ≠ []) (data : List Byte) {s : State} (hb : AtBoundary s) :
    ∃ t, runWords (expandWords (.rc4xform key data)) s =
      some (List.replicate (key.length + 2) 0x0000#16 ++
        (List.zipWith (fun d k => d ^^^ k) data (Reference.stream data.length (Reference.start key))).map
          (fun b => b.setWidth 16), t) := by
  obtain ⟨t, ht⟩ := runWords_session hkey (data.map some) hb
  exact ⟨t, by rw [expandWords_rc4xform, ht, zipWith_keystreamResponse_some, List.length_map]⟩

theorem transform_of_ne_nil {key : List Byte} (hkey : key ≠ []) (data : List Byte) :
    Reference.transform data key =
      some (List.zipWith (fun d k => d ^^^ k) data (Reference.stream data.length (Reference.start key))) := by
  rw [Reference.transform, generateKeystream_of_ne_nil hkey, Option.map_some]

/-- As many bytes as the data (43_xform.md R162). -/
theorem length_zipWith_xor_stream (data : List Byte) (g : Reference.Generator) :
    (List.zipWith (fun d k => d ^^^ k) data (Reference.stream data.length g)).length = data.length := by
  rw [List.length_zipWith, length_stream, min_self]

/-- Settles O45: `RC4XFORM` is a session of `XOR` words (`runWords_rc4xform`), and `transform` combines the same
stream with the data; the empty key starts none. -/
theorem blockTransformsData : Obligations.BlockTransformsData := by
  intro key data s hb
  refine ⟨fun hkey => ?_, rfl, ?_⟩
  · obtain ⟨t, ht⟩ := runWords_rc4xform hkey data hb
    exact ⟨_, t, transform_of_ne_nil hkey data, length_zipWith_xor_stream data _, ht⟩
  · obtain ⟨t, ht⟩ := runWords_session_of_empty_key (data.map some) hb
    exact ⟨t, by rw [expandWords_rc4xform, ht, List.length_map]⟩

/-! ### A transformation of transformed data -/

/-- Bytes combined twice with the same keystream are the bytes (43_xform.md R161). -/
theorem zipWith_xor_zipWith_xor {data ks : List Byte} (h : ks.length = data.length) :
    List.zipWith (fun d k => d ^^^ k) (List.zipWith (fun d k => d ^^^ k) data ks) ks = data := by
  induction data generalizing ks with
  | nil => rfl
  | cons d data ih =>
    cases ks with
    | nil => cases h
    | cons k ks =>
      rw [List.zipWith_cons_cons, List.zipWith_cons_cons, ih (Nat.succ.inj h), BitVec.xor_assoc, BitVec.xor_self,
        BitVec.xor_zero]

/-- Settles O47: both runs combine with the stream of the same length from the same generator (`runWords_rc4xform`), and
combining twice gives the data back. -/
theorem transformTwiceIsTheData : Obligations.TransformTwiceIsTheData := by
  intro key data s u hs hu hkey
  obtain ⟨t, ht⟩ := runWords_rc4xform hkey data hs
  obtain ⟨v, hv⟩ := runWords_rc4xform hkey
    (List.zipWith (fun d k => d ^^^ k) data (Reference.stream data.length (Reference.start key))) hu
  rw [length_zipWith_xor_stream, zipWith_xor_zipWith_xor (length_stream _ _)] at hv
  exact ⟨_, _, t, v, generateKeystream_of_ne_nil hkey _, rfl, ht, hv⟩

end Sys2Proof.Proofs
end

section
/-! PROOFS. Control and status commands (44_control.md): what `NOP`, `RDSTAT` and `RDKLEN` answer (R180 to R182), and
that they may stand between any two words (R183). -/

namespace Sys2Proof.Proofs

open Sys2Proof.Machine Sys2Proof.Safety Sys2Proof.Laws

/-! ### One command -/

/-- Settles O6: the response word of OK with 0x00 is 0x0000. -/
theorem nopRespondsOk : Obligations.NopRespondsOk := ⟨rfl, fun _ => rfl⟩

theorem exec_rdstat (s : State) : exec .rdstat s = .next (respond .ok (statusByte s) s) := rfl

theorem exec_rdklen (s : State) : exec .rdklen s = .next (respond .ok (klenByte s) s) := rfl

/-- Settles O12: the response is the sum of the three bits (`responseWord_statusByte`), the flags read as the key
length. -/
theorem rdstatReportsStatus : Obligations.RdstatReportsStatus := by
  refine ⟨rfl, fun s => ?_⟩
  rw [exec_rdstat, respond, responseWord_statusByte]
  simp only [kfull_iff, kempty_iff]

/-- The response of `RDKLEN`, by the number it shows (10_state.md R30). -/
theorem responseWord_klenByte (s : State) :
    responseWord .ok (klenByte s) = BitVec.ofNat 16 (s.KEYLEN.toNat % 256) := by
  rw [responseWord_ok, ← BitVec.ofNat_toNat, klenByte, BitVec.extractLsb'_toNat]
  rfl

/-- Settles O13: KLEN is the remainder of the key length (`responseWord_klenByte`). -/
theorem rdklenReportsTheKeyLength : Obligations.RdklenReportsTheKeyLength := by
  refine ⟨rfl, fun s => ?_⟩
  rw [exec_rdklen, respond, responseWord_klenByte]

/-! ### Between any two words -/

/-- A response presented and taken leaves no trace in a command's result: no command reads the phase or the response,
and every command writes both. -/
theorem exec_takeResponse_respond (i : Instr) (st : Status) (d : Byte) (s : State) :
    exec i (takeResponse (respond st d s)) = exec i s := by
  cases i with
  | kpush b =>
    cases hr : s.READY with
    | true => rw [exec_kpush_of_keyed hr, exec_kpush_of_keyed (by simpa using hr)]; rfl
    | false =>
      rw [exec_kpush_of_not_keyed hr, exec_kpush_of_not_keyed (by simpa using hr), respond_appendKeyByte_takeResponse]
  | nop | kclr | ksa | gen | xor d | rdstat | rdklen => rfl

/-- The same for a word, legal or not. -/
theorem runWord_takeResponse_respond (w : Word) (st : Status) (d : Byte) (s : State) :
    runWord w (takeResponse (respond st d s)) = runWord w s := by
  unfold runWord
  cases decode w with
  | command i => exact exec_takeResponse_respond i st d s
  | illegal why => rfl

/-- The same for a run of at least one word: its first word already overwrites the response. -/
theorem runWords_cons_respond_takeResponse (w : Word) (ws : List Word) (st : Status) (d : Byte) {s : State}
    (hb : AtBoundary s) : runWords (w :: ws) (respond st d (takeResponse s)) = runWords (w :: ws) s := by
  obtain ⟨u, hu, -⟩ := runWord_answers w (takeResponse s)
  have hu' : runWord w (takeResponse (respond st d (takeResponse s))) = .next u :=
    (runWord_takeResponse_respond w st d _).trans hu
  rw [runWords_cons w ws _ u (.inr rfl) hu', runWords_cons w ws s u hb hu]

/-- A run behind a response that changed no register: the same responses, and the same registers at the end. -/
theorem runWords_respond_takeResponse (ws : List Word) (st : Status) (d : Byte) {s : State} (hb : AtBoundary s) :
    ∃ rs t t', runWords ws s = some (rs, t) ∧ runWords ws (respond st d (takeResponse s)) = some (rs, t') ∧
      t' = { t with PHASE := t'.PHASE, RSP := t'.RSP } := by
  cases ws with
  | nil => exact ⟨[], s, _, rfl, rfl, rfl⟩
  | cons w ws =>
    obtain ⟨rs, t, ht, -, -⟩ := runWords_answers (w :: ws) s hb
    exact ⟨rs, t, t, ht, (runWords_cons_respond_takeResponse w ws st d hb).trans ht, rfl⟩

/-- The words of `NOP`, `RDSTAT` and `RDKLEN` respond OK and change nothing else (44_control.md R183). -/
theorem runWord_control_word {w : Word} (hw : w = 0x0000#16 ∨ w = 0x6000#16 ∨ w = 0x7000#16) (s : State) :
    ∃ d, runWord w s = .next (respond .ok d s) := by
  rcases hw with rfl | rfl | rfl
  · exact ⟨_, runWord_of_command (decode_encode .nop) s⟩
  · exact ⟨_, runWord_of_command (decode_encode .rdstat) s⟩
  · exact ⟨_, runWord_of_command (decode_encode .rdklen) s⟩

/-- Settles O30: the inserted word only presents a response (`runWord_control_word`), and the words after it draw the
same responses and leave the same registers behind any response (`runWords_respond_takeResponse`). -/
theorem controlWordsMayStandAnywhere : Obligations.ControlWordsMayStandAnywhere := by
  intro before later w s hb hw
  obtain ⟨rs, m, hbefore, hlen, hm⟩ := runWords_answers before s hb
  obtain ⟨d, hrun⟩ := runWord_control_word hw (takeResponse m)
  obtain ⟨rs', t, t', ht, ht', hframe⟩ := runWords_respond_takeResponse later .ok d hm
  refine ⟨rs, rs', responseWord .ok d, t, hlen, stOf_responseWord .ok d, ?_, t', ?_, hframe⟩
  · rw [runWords_append _ _ _ _ _ hbefore, ht]; rfl
  · rw [runWords_append _ _ _ _ _ hbefore, runWords_cons w later m _ hm hrun, ht']; rfl

end Sys2Proof.Proofs
end

section
/-! PROOFS. The errors (60_exceptions.md): which word raises which status (R206), what an error leaves unchanged (R200),
and an illegal word presented to the step (R201). -/

namespace Sys2Proof.Proofs

open Sys2Proof.Machine Sys2Proof.Safety Sys2Proof.Laws

/-! ### An illegal word presented -/

/-- Settles O17: the word presented is the one that runs (`step_of_command`), and an illegal word only presents its
response (`runWord_of_illegal`). -/
theorem stepAnswersIllegalWords : Obligations.StepAnswersIllegalWords :=
  fun _ _ _ _ hb hh hi => (step_of_command hb hh).trans (runWord_of_illegal hi _)

/-! ### The table of errors -/

/-- The status the table of errors gives a command, by the two things it reads of the state: whether the block is
keyed, and whether the key is empty (60_exceptions.md R206). -/
def tabledStatus (s : State) : Instr → Status
  | .kpush _ => if s.READY then .keyLocked else .ok
  | .ksa => if s.KEYLEN.toNat = 0 then .invalidKey else .ok
  | .gen => if s.READY then .ok else .notKeyed
  | .xor _ => if s.READY then .ok else .notKeyed
  | .nop => .ok
  | .kclr => .ok
  | .rdstat => .ok
  | .rdklen => .ok

/-- Every command responds with its status in the table. -/
theorem exec_responds_tabledStatus (i : Instr) (s : State) :
    ∃ d u, exec i s = .next (respond (tabledStatus s i) d u) := by
  cases i with
  | nop | kclr | rdstat | rdklen => exact ⟨_, _, rfl⟩
  | kpush b =>
    cases hr : s.READY with
    | true => exact ⟨_, _, by simpa [tabledStatus, hr, raiseError] using exec_kpush_of_keyed hr b⟩
    | false => exact ⟨_, _, by simpa [tabledStatus, hr] using exec_kpush_of_not_keyed hr b⟩
  | ksa =>
    by_cases hk : s.KEYLEN = 0#9
    · exact ⟨_, _, by simpa [tabledStatus, hk, raiseError] using exec_ksa_of_empty_key hk⟩
    · have hlen : s.KEYLEN.toNat ≠ 0 := Nat.one_le_iff_ne_zero.1 (one_le_KEYLEN hk)
      exact ⟨_, _, by simpa [tabledStatus, hlen] using exec_ksa_of_key hk⟩
  | gen =>
    cases hr : s.READY with
    | true => exact ⟨_, _, by simpa [tabledStatus, hr] using exec_gen_of_keyed hr⟩
    | false => exact ⟨_, _, by simpa [tabledStatus, hr, raiseError] using exec_gen_of_not_keyed hr⟩
  | xor d =>
    cases hr : s.READY with
    | true => exact ⟨_, _, by simpa [tabledStatus, hr] using exec_xor_of_keyed hr d⟩
    | false => exact ⟨_, _, by simpa [tabledStatus, hr, raiseError] using exec_xor_of_not_keyed hr d⟩

/-- Settles O14: a legal word responds with its command's status in the table (`exec_responds_tabledStatus`), an
illegal one with `E_ILLEGAL`; the obligation's table lists the codes of these. -/
theorem eachWordRaisesTheTabledStatus : Obligations.EachWordRaisesTheTabledStatus := by
  intro w s
  rcases runWord_cases w s with ⟨i, hi, hrun⟩ | ⟨why, hi, hrun⟩
  · obtain ⟨d, u, hx⟩ := exec_responds_tabledStatus i s
    refine ⟨_, hrun.trans hx, rfl, (stOf_responseWord _ d).trans ?_⟩
    rw [hi]
    cases i with
    | nop | kclr | rdstat | rdklen => rfl
    | kpush _ | ksa | gen | xor _ => exact apply_ite Status.code _ _ _
  · exact ⟨_, hrun, rfl, (stOf_responseWord .illegal 0x00#8).trans (by rw [hi]; rfl)⟩

/-! ### What an error leaves -/

/-- Settles O15: a response that is not OK is a raised error (`eq_raiseError_of_stOf_ne_zero`), whose word carries 0x00
and which writes the phase and the response alone. -/
theorem errorsChangeNothingElse : Obligations.ErrorsChangeNothingElse := by
  intro w s t h hst
  obtain ⟨e, rfl⟩ := eq_raiseError_of_stOf_ne_zero h hst
  obtain ⟨-, hrsv, hdata⟩ := responseWordHasThreeFields.1 e 0x00#8
  exact ⟨hdata, hrsv, rfl, rfl⟩

end Sys2Proof.Proofs
end

section
/-! PROOFS. Reset at a clock edge and as an event of the host (70_reset_and_hazards.md R240, R241), and an offer held
through the wait after it (R242, R245). -/

namespace Sys2Proof.Proofs

open Sys2Proof.Machine Sys2Proof.Safety Sys2Proof.Laws

/-! ### The wait after reset -/

/-- `cmd_ready` is 0 until the wait is over (70_reset_and_hazards.md R242). -/
theorem cmdReady_of_waiting {T : Timing} {s : State} (hw : s.sinceReset < T.resetWait) (rst : Bool) :
    cmdReady T rst s = false := by
  simp [cmdReady, hw]

/-- There is a wait, unless `LAT_RESET` is 0 and counted as R73 counts (log entry 7). -/
theorem resetWait_pos {T : Timing} (h : T.resetCount = .afterFirstEdge ∨ 1 ≤ T.latReset) : 0 < T.resetWait := by
  unfold Timing.resetWait
  cases hc : T.resetCount with
  | sinceRstWasLast1 => exact h.resolve_left (by simp [hc])
  | afterFirstEdge => exact Nat.succ_pos _

/-- The duty of R245 at an edge that does not accept the offer: the next cycle offers the same word, and the duty goes
on from the state after the edge. -/
theorem offersHeld_of_not_accepted {T : Timing} {x y : PortsIn} {ys : List PortsIn} {s t : State}
    (h : offersHeld T (x :: y :: ys) s = true) (hv : x.cmdValid = true) (hc : cmdReady T x.rst s = false)
    (he : edge T x s = .next t) :
    y.cmdValid = true ∧ y.cmdWord = x.cmdWord ∧ offersHeld T (y :: ys) t = true := by
  simpa [offersHeld, offerHeld, hv, hc, he, and_assoc] using h

/-- Settles O51, by induction on the edges left of the wait: the first of them only counts (`edge_waits`) and leaves the
same offer to the next cycle (`offersHeld_of_not_accepted`); with none left the word is accepted (`edge_accepts`). -/
theorem offerHeldAfterResetIsAccepted : Obligations.OfferHeldAfterResetIsAccepted := by
  intro T x xs s hp hwait hx hxs hv hheld
  induction xs generalizing x s with
  | nil =>
    have hc : cmdReady T false s = true := (cmdReady_iff T false s).2 ⟨hp, rfl, hwait.ge⟩
    exact ⟨_, by rw [edges, edge_accepts hp hx hv hc]; rfl, rfl⟩
  | cons y ys ih =>
    obtain ⟨hy, hys⟩ := List.forall_mem_cons.1 hxs
    rw [List.length_cons] at hwait
    have hlt : s.sinceReset < T.resetWait := by omega
    have hedge : edge T x s = .next (tick s) := edge_waits T x s hp hx hlt
    obtain ⟨hyv, hword, hrest⟩ := offersHeld_of_not_accepted hheld hv (cmdReady_of_waiting hlt _) hedge
    obtain ⟨t, hrun, ht⟩ := ih y (tick s) hp (by rw [tick_sinceReset]; omega) hy hys hyv hrest
    exact ⟨t, by rw [edges, hedge]; exact hrun, hword ▸ ht⟩

/-! ### Reset -/

/-- Settles O21: the edge is `applyReset`, after which no edge has been counted. -/
theorem resetEdgeClearsTheBlock : Obligations.ResetEdgeClearsTheBlock := fun T _ s hx =>
  ⟨applyReset s, edge_resets T hx s, rfl, rfl, rfl, rfl, rfl, rfl, rfl,
    fun h => cmdReady_of_waiting (resetWait_pos h) false, rfl, rfl⟩

/-- A reset that is next comes before everything else, whatever the phase (log entry 6). -/
theorem step_of_reset {s : State} {rest : List HostEvent} (hh : s.host = .reset :: rest) :
    step s = .next (applyReset { s with host := rest }) := by
  simp [step, transact, hh]

/-- Settles O22: the step is `applyReset`, which leaves the block idle, so that the next word runs as O16 says. -/
theorem resetEventAbandonsTheCommand : Obligations.ResetEventAbandonsTheCommand := fun _ _ hh =>
  ⟨_, step_of_reset hh, rfl, rfl, rfl, rfl, rfl, rfl, rfl,
    fun _ _ _ hrest hi => stepRunsTheDecodedCommand _ _ _ _ (.inl rfl) hrest hi⟩

end Sys2Proof.Proofs
end
